-- ==== Sys2Proof/Word.lean ====
section
/-! DEFINITION. The words of CORE: 64-bit registers and addresses (R140, R20), 32-bit instruction words (R110), bytes. -/

namespace Sys2Proof

/-- A register value, an address or a doubleword: `XLEN` is 64 (R7, R140). -/
abbrev Word := BitVec 64

/-- An instruction word (R110). -/
abbrev InsWord := BitVec 32

/-- One byte. -/
abbrev Byte := BitVec 8

end Sys2Proof
end

