-- ==== Sys2Proof/Config.lean ====
section
/-! DEFINITION. The open parameters of R7 (92_eei_decisions.md section 1) as plain data. A machine carries its
parameters in `State.cfg`; no step changes them, so a statement about every state holds for every parameter value.
`RF_INIT` is not here: it is the register file a run starts from. -/

namespace Sys2Proof

/-- A block of addresses outside the cached window: the addresses whose bits under `mask` are those of `value`. -/
structure Region where
  mask : Word
  value : Word
  deriving DecidableEq, Repr

/-- The parameters of R7. `LINE_OFF_BITS` is 3 and no parameter (D6).
`external` lists what lies OUTSIDE `InCachedWindow` (R62, D9); a finite list of blocks can describe any predicate
that is constant on doublewords, which is what 92_eei_decisions.md section 1 asks of it. -/
structure Config where
  resetVector : Word
  iidxBits : Nat
  didxBits : Nat
  external : List Region
  r0HardwiredZero : Bool
  deriving DecidableEq, Repr

/-- The reference values of R7. PRESUMED (the spec takes reset vector and window from general knowledge: GK10, GK11)
and DESIGN CHOICE of the spec (D5, D7, D9, D17); unsafe for a claim that rests on them: entry 2. -/
def Config.reference : Config :=
  { resetVector := 0xFFFFFFFFBFC00000
    iidxBits := 9
    didxBits := 9
    external := [{ mask := 0xE0000000, value := 0xA0000000 }]
    r0HardwiredZero := false }

/-- The constraints of 92_eei_decisions.md section 1 on the parameters: the reset vector is a multiple of 4 and
"high-half-extended" (R21), and each index has at least one bit and fits in the address (R67). -/
def Config.legal (c : Config) : Bool :=
  c.resetVector.toNat % 4 == 0
    && c.resetVector == (c.resetVector.setWidth 32).signExtend 64
    && 1 ≤ c.iidxBits && 3 + c.iidxBits ≤ 64
    && 1 ≤ c.didxBits && 3 + c.didxBits ≤ 64

end Sys2Proof
end

