-- ==== Sys2Proof/Syntax.lean ====
section
/-! DEFINITION. The instructions: one constructor per row of spec/opcode_table.json (R118), operands in the order of
the assembler syntax of R130. -/

namespace Sys2Proof

/-- R25: a RegisterId is tagged `Integer(n)` or `Float(n)`, `n` in [0, 32). -/
inductive RegisterId where
  | integer (n : Fin 32)
  | float (n : Fin 32)
  deriving DecidableEq, Repr

/-- R118: the 40 admitted instructions. A register operand is a RegisterId; an encoding can only name
`Integer` registers (R114), which `wellFormed` checks. `imm`, `sa` and `target` are the fields of R112. -/
inductive Instr where
  -- immediate ALU forms, R180 to R184
  | lui (rt : RegisterId) (imm : BitVec 16)
  | ori (rt rs : RegisterId) (imm : BitVec 16)
  | daddiu (rt rs : RegisterId) (imm : BitVec 16)
  | slti (rt rs : RegisterId) (imm : BitVec 16)
  | sltiu (rt rs : RegisterId) (imm : BitVec 16)
  -- three-register ALU forms, R185 to R189
  | or (rd rs rt : RegisterId)
  | slt (rd rs rt : RegisterId)
  | sltu (rd rs rt : RegisterId)
  | daddu (rd rs rt : RegisterId)
  | dsubu (rd rs rt : RegisterId)
  -- shifts by immediate, R190 to R192, R196 to R198, R202 to R204
  | sll (rd rt : RegisterId) (sa : BitVec 5)
  | srl (rd rt : RegisterId) (sa : BitVec 5)
  | sra (rd rt : RegisterId) (sa : BitVec 5)
  | dsll (rd rt : RegisterId) (sa : BitVec 5)
  | dsrl (rd rt : RegisterId) (sa : BitVec 5)
  | dsra (rd rt : RegisterId) (sa : BitVec 5)
  | dsll32 (rd rt : RegisterId) (sa : BitVec 5)
  | dsrl32 (rd rt : RegisterId) (sa : BitVec 5)
  | dsra32 (rd rt : RegisterId) (sa : BitVec 5)
  -- shifts by register, R193 to R195, R199 to R201
  | sllv (rd rt rs : RegisterId)
  | srlv (rd rt rs : RegisterId)
  | srav (rd rt rs : RegisterId)
  | dsllv (rd rt rs : RegisterId)
  | dsrlv (rd rt rs : RegisterId)
  | dsrav (rd rt rs : RegisterId)
  -- loads, R222 to R228: `rt, imm(rs)`
  | lb (rt rs : RegisterId) (imm : BitVec 16)
  | lbu (rt rs : RegisterId) (imm : BitVec 16)
  | lh (rt rs : RegisterId) (imm : BitVec 16)
  | lhu (rt rs : RegisterId) (imm : BitVec 16)
  | lw (rt rs : RegisterId) (imm : BitVec 16)
  | lwu (rt rs : RegisterId) (imm : BitVec 16)
  | ld (rt rs : RegisterId) (imm : BitVec 16)
  -- stores, R229 to R232: `rt, imm(rs)`
  | sb (rt rs : RegisterId) (imm : BitVec 16)
  | sh (rt rs : RegisterId) (imm : BitVec 16)
  | sw (rt rs : RegisterId) (imm : BitVec 16)
  | sd (rt rs : RegisterId) (imm : BitVec 16)
  -- control transfers, R252 to R255
  | beq (rs rt : RegisterId) (imm : BitVec 16)
  | bne (rs rt : RegisterId) (imm : BitVec 16)
  | j (target : BitVec 26)
  | jr (rs : RegisterId)
  deriving DecidableEq, Repr

end Sys2Proof
end

