-- ==== Sys2Proof/Machine/State.lean ====
section
/-! DEFINITION. The state of CORE as plain data (10_state.md), the reasons a step can stop (R335), and the state right
after reset (R48, R361). -/

namespace Sys2Proof.Machine

/-! ### Cache arrays -/

/-- A sparse array: index and entry, indices strictly rising, no entry equal to what an unlisted index reads as
(`Memory.wf` in Ops.lean). CORE has no memory but its two cache arrays: entry 12. -/
abbrev Memory (α : Type) := List (Nat × α)

/-- R32: a line of the ICache. It has no dirty bit. -/
structure ILine where
  tag : Nat
  valid : Bool
  data : Word
  deriving DecidableEq, Repr

/-- R33: a line of the DCache. -/
structure DLine where
  tag : Nat
  valid : Bool
  dirty : Bool
  data : Word
  deriving DecidableEq, Repr

/-- What an unlisted ICache index reads as: R48, invalid at power-on. Tag and data are unspecified and never read
(U4): DESIGN CHOICE 0, entry 4. -/
def ILine.absent : ILine := { tag := 0, valid := false, data := 0 }

/-- What an unlisted DCache index reads as: as `ILine.absent`, and not dirty. -/
def DLine.absent : DLine := { tag := 0, valid := false, dirty := false, data := 0 }

/-! ### Masks, outputs, inputs -/

/-- R160: the pair that names a byte range of a doubleword, length `size + 1` bytes from byte `align`. Plain data; the
legal ones have `size + align ≤ 7` (`MemMask.legal`). -/
structure MemMask where
  size : Nat
  align : Nat
  deriving DecidableEq, Repr

/-- R40: the four stall reasons. -/
inductive StallReason where
  | instructionCacheBusy
  | dataCacheBusy
  | dataCacheMiss
  | loadInterlock
  deriving DecidableEq, Repr

/-- R331: the one reason of `ExceptionWB`. -/
inductive ExceptionReason where
  | reset
  deriving DecidableEq, Repr

/-- R40: the status of a cycle. No numeric code exists (R42). -/
inductive PipelineStatus where
  | ok
  | stall (r : StallReason)
  | exceptionWB (r : ExceptionReason)
  deriving DecidableEq, Repr

/-- R44: a request on the external bus. `size` has the MemMask encoding, length minus 1. -/
structure ExternalRequest where
  address : Word
  data : Word
  size : Nat
  write : Bool
  deriving DecidableEq, Repr

/-- R45, R82: the DCache write of a cycle, data at its final bit position. -/
structure DCacheWrite where
  rowAddress : Word
  mask : MemMask
  data : Word
  deriving DecidableEq, Repr

/-- R47: one line presented to a cache by the fill collaborator. -/
structure Fill where
  index : Nat
  tag : Nat
  data : Word
  deriving DecidableEq, Repr

/-- R270: the inputs of one cycle. -/
structure Inputs where
  reset : Bool
  ifill : Option Fill
  dfill : Option Fill
  deriving DecidableEq, Repr

/-- A cycle in which the collaborator presents nothing and reset is not asserted. -/
def Inputs.quiet : Inputs := { reset := false, ifill := none, dfill := none }

/-! ### Stage registers (R36) -/

structure FetchDecode where
  pc : Word
  word : InsWord
  deriving DecidableEq, Repr

structure DecodeExecute where
  pc : Word
  ins : Instr
  a : Word
  b : Word
  sdata : Word
  taken : Bool
  deriving DecidableEq, Repr

structure ExecuteMemory where
  pc : Word
  ins : Instr
  result : Word
  sdata : Word
  deriving DecidableEq, Repr

structure MemoryWriteback where
  pc : Word
  ins : Instr
  dest : Option RegisterId
  value : Word
  deriving DecidableEq, Repr

/-- R13, R14: the two readings of the machine, the cycle-level one (normative) and the instruction-level one. Which
of them one step follows: entry 1. -/
inductive Reading where
  | cycle
  | instruction
  deriving DecidableEq, Repr

/-! ### The state -/

structure State where
  /-- R7: the parameters; no step changes them. -/
  cfg : Config
  /-- R13, R14: what one step is (the model's own field, entry 1). -/
  reading : Reading
  /-- R49: a reset cycle has happened. -/
  wasReset : Bool
  /-- R270: what the reset pin and the fill interface present in the coming cycles, next cycle first; when the list
  is empty, nothing (the model's own field, entry 6). -/
  inputs : List Inputs
  /-- R20: the address of the next instruction to fetch. -/
  pc : Word
  /-- R259: in the instruction-level reading, the address of the instruction after the one at `pc`. -/
  npc : Word
  /-- R257: in the instruction-level reading, the instruction at `pc` is in the delay slot of a taken transfer. -/
  afterTaken : Bool
  /-- R25: the register file, `Integer(n)` at place `n`, `Float(n)` at place `32 + n`. -/
  rf : Vector Word 64
  /-- R32: the ICache, by line index. -/
  ic : Memory ILine
  /-- R33: the DCache, by line index. -/
  dc : Memory DLine
  /-- R34: a store was committed to the DCache in the cycle before. -/
  dcBusy : Bool
  /-- R36: between Fetch and Decode. -/
  fd : Option FetchDecode
  /-- R36: between Decode and Execute. -/
  dx : Option DecodeExecute
  /-- R36: between Execute and Memory. -/
  xm : Option ExecuteMemory
  /-- R36: between Memory and Writeback. -/
  mw : Option MemoryWriteback
  /-- R40: the status output of the cycle just ended. -/
  status : PipelineStatus
  /-- R44: the external bus output of the cycle just ended. -/
  ext : Option ExternalRequest
  /-- R45: the DCache write of the cycle just ended. -/
  dcwrite : Option DCacheWrite
  deriving DecidableEq, Repr

/-! ### Why a step can stop (R335) -/

/-- R335, the model outcomes `fault`: the hardware's behaviour is undefined or unknown here. All are safe: the model
stops where the hardware goes on. -/
inductive Fault where
  /-- R49: raised by a step that is no reset cycle from a state that has never been reset. Safe. -/
  | noReset
  /-- R24: raised by Fetch when `pc` is no multiple of 4. Safe. -/
  | misalignedPc
  /-- R78: raised by the Memory stage, and by a load or store, when the address is no multiple of the width. Safe. -/
  | misalignedAccess
  /-- R170: raised by `MemMask.make` when `size + align > 7`. Safe. No step reaches it (R78 comes first). -/
  | memMaskContract
  /-- R31: raised by `RegisterId.port` for an index of 32 or more. Safe. No 5-bit field reaches it. -/
  | registerIdOutOfRange
  deriving DecidableEq, Repr

/-- R335, the model outcomes `refuse`: the spec gives the situation no meaning. All are safe. -/
inductive Refusal where
  /-- An instruction the model has not been given; raised by `exec`'s arm for it only. Safe. No arm raises it now. -/
  | notModelled (mnemonic : String)
  /-- R125: raised by Decode for a word that matches no row of the opcode table. Safe. -/
  | unadmittedEncoding (w : InsWord)
  /-- R85: raised by a load whose address lies outside the cached window. Safe. -/
  | loadOutsideCachedWindow
  /-- R257: raised by a control transfer in the delay slot of a taken transfer. Safe. -/
  | controlTransferInDelaySlot
  deriving DecidableEq, Repr

/-- A reason to stop, as the stage functions report it. -/
inductive Stop where
  | fault (f : Fault)
  | refuse (r : Refusal)
  deriving DecidableEq, Repr

/-! ### Reset -/

/-- R48, R361: the state after one reset cycle from power-on in which no fill was presented. Parameters at the
reference values (entry 2); registers, which reset leaves alone and power-on leaves unspecified, DESIGN CHOICE 0
(entry 3, unsafe); no cache line filled; the normative reading (entry 1); no input pending (entry 6). -/
def State.reset : State :=
  { cfg := Config.reference
    reading := .cycle
    wasReset := true
    inputs := []
    pc := Config.reference.resetVector
    npc := Config.reference.resetVector + 4
    afterTaken := false
    rf := Vector.replicate 64 0
    ic := []
    dc := []
    dcBusy := false
    fd := none
    dx := none
    xm := none
    mw := none
    status := .exceptionWB .reset
    ext := none
    dcwrite := none }

/-- R48, R49, R365: a state before the first cycle. `pc`, the registers, the stage registers and the outputs are
unspecified there, so they are left open. -/
def State.powerOn (s : State) : Prop :=
  s.wasReset = false ∧ s.ic = [] ∧ s.dc = [] ∧ s.dcBusy = false

end Sys2Proof.Machine
end

