-- ==== Sys2Proof/Machine/Alu.lean ====
section
/-! DEFINITION. The Arithmetic/Shift Unit (40_alu_unit.md): a pure function of a mode and two 64-bit operands (R140).
It sets no flag and raises nothing (R142). -/

namespace Sys2Proof.Machine

/-- R141: the twelve modes, a closed enumeration. `or` and `passB` are the two the spec adds (D25). -/
inductive AluMode where
  | add64
  | sub64
  | setLess
  | setLessUnsigned
  | shiftLeft32
  | shiftRight32
  | shiftRightArith32
  | shiftLeft64
  | shiftRight64
  | shiftRightArith64
  | or
  | passB
  deriving DecidableEq, Repr

/-- `sext_32` of R10. -/
def sext32 (x : BitVec 32) : Word := x.signExtend 64

/-- The low 32 bits, which the 32-bit modes operate on (R148). -/
def low32 (a : Word) : BitVec 32 := a.setWidth 32

/-- R147: the amount of a 32-bit shift, `b[4:0]`. -/
def amount32 (b : Word) : Nat := b.toNat % 32

/-- R147: the amount of a 64-bit shift, `b[5:0]`. -/
def amount64 (b : Word) : Nat := b.toNat % 64

/-- A compare result: 1 or 0 (R145, R146). -/
def boolWord (p : Bool) : Word := if p then 1 else 0

/-- R143. -/
def add64 (a b : Word) : Word := a + b
/-- R144. -/
def sub64 (a b : Word) : Word := a - b
/-- R145: the comparison is of the signed values. -/
def setLess (a b : Word) : Word := boolWord (decide (a.toInt < b.toInt))
/-- R146: the comparison is of the unsigned values. -/
def setLessUnsigned (a b : Word) : Word := boolWord (decide (a.toNat < b.toNat))
/-- R149. -/
def shiftLeft32 (a b : Word) : Word := sext32 (low32 a <<< amount32 b)
/-- R150. -/
def shiftRight32 (a b : Word) : Word := sext32 (low32 a >>> amount32 b)
/-- R151: the low word is sign-extended, then shifted. -/
def shiftRightArith32 (a b : Word) : Word := (sext32 (low32 a)).sshiftRight (amount32 b)
/-- R152. -/
def shiftLeft64 (a b : Word) : Word := a <<< amount64 b
/-- R152. -/
def shiftRight64 (a b : Word) : Word := a >>> amount64 b
/-- R152. -/
def shiftRightArith64 (a b : Word) : Word := a.sshiftRight (amount64 b)
/-- R153. -/
def orBits (a b : Word) : Word := a ||| b
/-- R154. -/
def passB (_a b : Word) : Word := b

/-- R140, R141: the unit. -/
def alu : AluMode → Word → Word → Word
  | .add64, a, b => add64 a b
  | .sub64, a, b => sub64 a b
  | .setLess, a, b => setLess a b
  | .setLessUnsigned, a, b => setLessUnsigned a b
  | .shiftLeft32, a, b => shiftLeft32 a b
  | .shiftRight32, a, b => shiftRight32 a b
  | .shiftRightArith32, a, b => shiftRightArith32 a b
  | .shiftLeft64, a, b => shiftLeft64 a b
  | .shiftRight64, a, b => shiftRight64 a b
  | .shiftRightArith64, a, b => shiftRightArith64 a b
  | .or, a, b => orBits a b
  | .passB, a, b => passB a b

end Sys2Proof.Machine
end

