-- ==== Sys2Proof/WellFormed.lean ====
section
/-! DEFINITION. Which instruction terms an encoding can stand for: every register operand is an `Integer` register
(R114, R31: "no admitted instruction names a `Float` register"). Immediates, amounts and targets have their field's
width in their type, so nothing else can be out of range. -/

namespace Sys2Proof

/-- R114: the register a 5-bit field can name. -/
def RegisterId.isInteger : RegisterId → Bool
  | .integer _ => true
  | .float _ => false

/-- R31, R114: the instruction names `Integer` registers only. -/
def Instr.wellFormed : Instr → Bool
  | .lui rt _ => rt.isInteger
  | .ori r1 r2 _ => r1.isInteger && r2.isInteger
  | .daddiu r1 r2 _ => r1.isInteger && r2.isInteger
  | .slti r1 r2 _ => r1.isInteger && r2.isInteger
  | .sltiu r1 r2 _ => r1.isInteger && r2.isInteger
  | .or r1 r2 r3 => r1.isInteger && r2.isInteger && r3.isInteger
  | .slt r1 r2 r3 => r1.isInteger && r2.isInteger && r3.isInteger
  | .sltu r1 r2 r3 => r1.isInteger && r2.isInteger && r3.isInteger
  | .daddu r1 r2 r3 => r1.isInteger && r2.isInteger && r3.isInteger
  | .dsubu r1 r2 r3 => r1.isInteger && r2.isInteger && r3.isInteger
  | .sll r1 r2 _ => r1.isInteger && r2.isInteger
  | .srl r1 r2 _ => r1.isInteger && r2.isInteger
  | .sra r1 r2 _ => r1.isInteger && r2.isInteger
  | .dsll r1 r2 _ => r1.isInteger && r2.isInteger
  | .dsrl r1 r2 _ => r1.isInteger && r2.isInteger
  | .dsra r1 r2 _ => r1.isInteger && r2.isInteger
  | .dsll32 r1 r2 _ => r1.isInteger && r2.isInteger
  | .dsrl32 r1 r2 _ => r1.isInteger && r2.isInteger
  | .dsra32 r1 r2 _ => r1.isInteger && r2.isInteger
  | .sllv r1 r2 r3 => r1.isInteger && r2.isInteger && r3.isInteger
  | .srlv r1 r2 r3 => r1.isInteger && r2.isInteger && r3.isInteger
  | .srav r1 r2 r3 => r1.isInteger && r2.isInteger && r3.isInteger
  | .dsllv r1 r2 r3 => r1.isInteger && r2.isInteger && r3.isInteger
  | .dsrlv r1 r2 r3 => r1.isInteger && r2.isInteger && r3.isInteger
  | .dsrav r1 r2 r3 => r1.isInteger && r2.isInteger && r3.isInteger
  | .lb r1 r2 _ => r1.isInteger && r2.isInteger
  | .lbu r1 r2 _ => r1.isInteger && r2.isInteger
  | .lh r1 r2 _ => r1.isInteger && r2.isInteger
  | .lhu r1 r2 _ => r1.isInteger && r2.isInteger
  | .lw r1 r2 _ => r1.isInteger && r2.isInteger
  | .lwu r1 r2 _ => r1.isInteger && r2.isInteger
  | .ld r1 r2 _ => r1.isInteger && r2.isInteger
  | .sb r1 r2 _ => r1.isInteger && r2.isInteger
  | .sh r1 r2 _ => r1.isInteger && r2.isInteger
  | .sw r1 r2 _ => r1.isInteger && r2.isInteger
  | .sd r1 r2 _ => r1.isInteger && r2.isInteger
  | .beq r1 r2 _ => r1.isInteger && r2.isInteger
  | .bne r1 r2 _ => r1.isInteger && r2.isInteger
  | .j _ => true
  | .jr rs => rs.isInteger

end Sys2Proof
end

