-- ==== Sys2Proof/Decode.lean ====
section
/-! DEFINITION. Decoding (R121), total on words and on byte lists, and the encoder. Field positions R112, opcode map
R118, must-be-zero fields R119. The numbers are MIPS III's, taken by the spec from general knowledge (D2): entry 13. -/

namespace Sys2Proof

/-! ### Fields of a word (R112) -/

def opField (w : InsWord) : BitVec 6 := w.extractLsb' 26 6
def rsField (w : InsWord) : BitVec 5 := w.extractLsb' 21 5
def rtField (w : InsWord) : BitVec 5 := w.extractLsb' 16 5
def rdField (w : InsWord) : BitVec 5 := w.extractLsb' 11 5
def shiftField (w : InsWord) : BitVec 5 := w.extractLsb' 6 5
def funcField (w : InsWord) : BitVec 6 := w.extractLsb' 0 6
def immField (w : InsWord) : BitVec 16 := w.extractLsb' 0 16
def targetField (w : InsWord) : BitVec 26 := w.extractLsb' 0 26

/-- R114: a 5-bit register field with value `n` names `Integer(n)`. -/
def regOfField (f : BitVec 5) : RegisterId := .integer f.toFin

/-- The 5-bit field that names a register. A `Float` register has none (R114); it gets the bits of its number, and
an instruction that names one is not well-formed. -/
def RegisterId.field : RegisterId → BitVec 5
  | .integer n => BitVec.ofFin n
  | .float n => BitVec.ofFin n

/-- Why bytes are no instruction. -/
inductive DecodeReject where
  /-- R125: the word matches no row of the opcode table. -/
  | unadmitted (w : InsWord)
  /-- R110: fewer than the four bytes of an instruction. -/
  | truncated
  deriving DecidableEq, Repr

/-! ### Decoding a word (R113, R118, R119, R121) -/

/-- An R-type word with three registers; `shift` must be 0 (R119). -/
def decodeThree (w : InsWord) (mk : RegisterId → RegisterId → RegisterId → Instr) : Except DecodeReject Instr :=
  if shiftField w = 0 then
    .ok (mk (regOfField (rdField w)) (regOfField (rsField w)) (regOfField (rtField w)))
  else .error (.unadmitted w)

/-- A shift by register: operands `rd, rt, rs`; `shift` must be 0 (R119). -/
def decodeShiftVar (w : InsWord) (mk : RegisterId → RegisterId → RegisterId → Instr) : Except DecodeReject Instr :=
  decodeThree w (fun rd rs rt => mk rd rt rs)

/-- A shift by immediate: operands `rd, rt, sa`; `rs` must be 0 (R119). -/
def decodeShift (w : InsWord) (mk : RegisterId → RegisterId → BitVec 5 → Instr) : Except DecodeReject Instr :=
  if rsField w = 0 then
    .ok (mk (regOfField (rdField w)) (regOfField (rtField w)) (shiftField w))
  else .error (.unadmitted w)

/-- JR: `rt`, `rd` and `shift` must be 0 (R119). -/
def decodeJr (w : InsWord) : Except DecodeReject Instr :=
  if rtField w = 0 ∧ rdField w = 0 ∧ shiftField w = 0 then .ok (.jr (regOfField (rsField w)))
  else .error (.unadmitted w)

/-- LUI: `rs` must be 0 (R119). -/
def decodeLui (w : InsWord) : Except DecodeReject Instr :=
  if rsField w = 0 then .ok (.lui (regOfField (rtField w)) (immField w))
  else .error (.unadmitted w)

/-- An I-type word with operands `rt, rs, imm`. -/
def decodeImm (w : InsWord) (mk : RegisterId → RegisterId → BitVec 16 → Instr) : Except DecodeReject Instr :=
  .ok (mk (regOfField (rtField w)) (regOfField (rsField w)) (immField w))

/-- A branch: operands `rs, rt, imm`. -/
def decodeBranch (w : InsWord) (mk : RegisterId → RegisterId → BitVec 16 → Instr) : Except DecodeReject Instr :=
  .ok (mk (regOfField (rsField w)) (regOfField (rtField w)) (immField w))

/-- R118, second table: `op = 0`, by `func`. -/
def decodeSpecial (w : InsWord) : Except DecodeReject Instr :=
  match (funcField w).toNat with
  | 0x00 => decodeShift w .sll
  | 0x02 => decodeShift w .srl
  | 0x03 => decodeShift w .sra
  | 0x04 => decodeShiftVar w .sllv
  | 0x06 => decodeShiftVar w .srlv
  | 0x07 => decodeShiftVar w .srav
  | 0x08 => decodeJr w
  | 0x14 => decodeShiftVar w .dsllv
  | 0x16 => decodeShiftVar w .dsrlv
  | 0x17 => decodeShiftVar w .dsrav
  | 0x25 => decodeThree w .or
  | 0x2A => decodeThree w .slt
  | 0x2B => decodeThree w .sltu
  | 0x2D => decodeThree w .daddu
  | 0x2F => decodeThree w .dsubu
  | 0x38 => decodeShift w .dsll
  | 0x3A => decodeShift w .dsrl
  | 0x3B => decodeShift w .dsra
  | 0x3C => decodeShift w .dsll32
  | 0x3E => decodeShift w .dsrl32
  | 0x3F => decodeShift w .dsra32
  | _ => .error (.unadmitted w)

/-- R121: the instruction of a word, or the rejection of R125. R118, first table: by `op`. -/
def decode (w : InsWord) : Except DecodeReject Instr :=
  match (opField w).toNat with
  | 0x00 => decodeSpecial w
  | 0x02 => .ok (.j (targetField w))
  | 0x04 => decodeBranch w .beq
  | 0x05 => decodeBranch w .bne
  | 0x0A => decodeImm w .slti
  | 0x0B => decodeImm w .sltiu
  | 0x0D => decodeImm w .ori
  | 0x0F => decodeLui w
  | 0x19 => decodeImm w .daddiu
  | 0x20 => decodeImm w .lb
  | 0x21 => decodeImm w .lh
  | 0x23 => decodeImm w .lw
  | 0x24 => decodeImm w .lbu
  | 0x25 => decodeImm w .lhu
  | 0x27 => decodeImm w .lwu
  | 0x28 => decodeImm w .sb
  | 0x29 => decodeImm w .sh
  | 0x2B => decodeImm w .sw
  | 0x37 => decodeImm w .ld
  | 0x3F => decodeImm w .sd
  | _ => .error (.unadmitted w)

/-! ### Bytes (R66: bit 31 of a word is the most significant bit of the byte at the lowest address) -/

/-- The four bytes of a word, lowest address first. -/
def wordBytes (w : InsWord) : List Byte :=
  [w.extractLsb' 24 8, w.extractLsb' 16 8, w.extractLsb' 8 8, w.extractLsb' 0 8]

/-- The word of four bytes, lowest address first. -/
def wordOfBytes (b0 b1 b2 b3 : Byte) : InsWord := b0 ++ b1 ++ b2 ++ b3

/-- The instruction at the head of a byte list and the bytes after it; a rejection by name otherwise. -/
def decodeBytes : List Byte → Except DecodeReject (Instr × List Byte)
  | b0 :: b1 :: b2 :: b3 :: rest =>
    match decode (wordOfBytes b0 b1 b2 b3) with
    | .ok i => .ok (i, rest)
    | .error e => .error e
  | _ => .error .truncated

/-- The word of a table row's bits: the table numbers bit 0 as the least significant bit of the one 32-bit word;
bits above `nbits` are 0. -/
def tableWord (nbits w : Nat) : InsWord := BitVec.ofNat 32 (w % 2 ^ nbits)

/-- The host's question: the instruction this decoder reads from the `nbits` bits `w` of an opcode-table row, laid
out as the hardware stores them. -/
def decodeTableWord (nbits w : Nat) : Option Instr :=
  match decodeBytes (wordBytes (tableWord nbits w)) with
  | .ok (i, _) => some i
  | .error _ => none

/-! ### The encoder, from the same tables (R112, R118, R119) -/

/-- R-type word: op, rs, rt, rd, shift, func. -/
def encodeR (rs rt rd shift : BitVec 5) (func : BitVec 6) : InsWord :=
  (0 : BitVec 6) ++ rs ++ rt ++ rd ++ shift ++ func

/-- I-type word: op, rs, rt, imm. -/
def encodeI (op : BitVec 6) (rs rt : BitVec 5) (imm : BitVec 16) : InsWord :=
  op ++ rs ++ rt ++ imm

/-- J-type word: op, target. -/
def encodeJ (op : BitVec 6) (target : BitVec 26) : InsWord := op ++ target

/-- Three registers, `shift` 0. -/
def encodeThree (rd rs rt : RegisterId) (func : BitVec 6) : InsWord :=
  encodeR rs.field rt.field rd.field 0 func

/-- Shift by immediate, `rs` 0. -/
def encodeShift (rd rt : RegisterId) (sa : BitVec 5) (func : BitVec 6) : InsWord :=
  encodeR 0 rt.field rd.field sa func

/-- `rt, rs, imm` forms. -/
def encodeImm (op : BitVec 6) (rt rs : RegisterId) (imm : BitVec 16) : InsWord :=
  encodeI op rs.field rt.field imm

/-- The word of an instruction (R118). -/
def encode : Instr → InsWord
  | .lui rt imm => encodeI 0x0F 0 rt.field imm
  | .ori rt rs imm => encodeImm 0x0D rt rs imm
  | .daddiu rt rs imm => encodeImm 0x19 rt rs imm
  | .slti rt rs imm => encodeImm 0x0A rt rs imm
  | .sltiu rt rs imm => encodeImm 0x0B rt rs imm
  | .or rd rs rt => encodeThree rd rs rt 0x25
  | .slt rd rs rt => encodeThree rd rs rt 0x2A
  | .sltu rd rs rt => encodeThree rd rs rt 0x2B
  | .daddu rd rs rt => encodeThree rd rs rt 0x2D
  | .dsubu rd rs rt => encodeThree rd rs rt 0x2F
  | .sll rd rt sa => encodeShift rd rt sa 0x00
  | .srl rd rt sa => encodeShift rd rt sa 0x02
  | .sra rd rt sa => encodeShift rd rt sa 0x03
  | .dsll rd rt sa => encodeShift rd rt sa 0x38
  | .dsrl rd rt sa => encodeShift rd rt sa 0x3A
  | .dsra rd rt sa => encodeShift rd rt sa 0x3B
  | .dsll32 rd rt sa => encodeShift rd rt sa 0x3C
  | .dsrl32 rd rt sa => encodeShift rd rt sa 0x3E
  | .dsra32 rd rt sa => encodeShift rd rt sa 0x3F
  | .sllv rd rt rs => encodeThree rd rs rt 0x04
  | .srlv rd rt rs => encodeThree rd rs rt 0x06
  | .srav rd rt rs => encodeThree rd rs rt 0x07
  | .dsllv rd rt rs => encodeThree rd rs rt 0x14
  | .dsrlv rd rt rs => encodeThree rd rs rt 0x16
  | .dsrav rd rt rs => encodeThree rd rs rt 0x17
  | .lb rt rs imm => encodeImm 0x20 rt rs imm
  | .lbu rt rs imm => encodeImm 0x24 rt rs imm
  | .lh rt rs imm => encodeImm 0x21 rt rs imm
  | .lhu rt rs imm => encodeImm 0x25 rt rs imm
  | .lw rt rs imm => encodeImm 0x23 rt rs imm
  | .lwu rt rs imm => encodeImm 0x27 rt rs imm
  | .ld rt rs imm => encodeImm 0x37 rt rs imm
  | .sb rt rs imm => encodeImm 0x28 rt rs imm
  | .sh rt rs imm => encodeImm 0x29 rt rs imm
  | .sw rt rs imm => encodeImm 0x2B rt rs imm
  | .sd rt rs imm => encodeImm 0x3F rt rs imm
  | .beq rs rt imm => encodeI 0x04 rs.field rt.field imm
  | .bne rs rt imm => encodeI 0x05 rs.field rt.field imm
  | .j target => encodeJ 0x02 target
  | .jr rs => encodeR rs.field 0 0 0 0x08

/-- The bytes of an instruction, lowest address first. -/
def encodeBytes (i : Instr) : List Byte := wordBytes (encode i)

/-! ### Assembler forms (R130, R131) -/

/-- R131: `nop`, the all-zero word (R126). -/
def nop : Instr := .sll (.integer 0) (.integer 0) 0

/-- R131: `b label`, branch-always. -/
def branchAlways (imm : BitVec 16) : Instr := .beq (.integer 0) (.integer 0) imm

/-- R131: `move rd, rs`. -/
def moveRegister (rd rs : RegisterId) : Instr := .or rd rs rs

/-- R131: `li32 rt, v`, two instructions. -/
def li32 (rt : RegisterId) (v : BitVec 32) : Instr × Instr :=
  (.lui rt (v.extractLsb' 16 16), .ori rt rt (v.extractLsb' 0 16))

/-- R130: the immediate of a branch at `pc` to `label`. -/
def branchField (pc label : Word) : BitVec 16 := ((label - (pc + 4)) >>> 2).setWidth 16

/-- R130: the target field of a J to `label`. -/
def jumpField (label : Word) : BitVec 26 := label.extractLsb' 2 26

/-- R130: a J at `pc` can reach `label`. -/
def jumpReaches (pc label : Word) : Bool := label.extractLsb' 28 36 == (pc + 4).extractLsb' 28 36

/-! ### The opcode table itself (R120) -/

/-- A row of opcode_table.json: a word is this instruction if and only if `w &&& mask = bits` (R120). -/
structure OpcodeRow where
  mnemonic : String
  bits : InsWord
  mask : InsWord
  deriving DecidableEq, Repr

/-- Rows of opcode_table.json, copied number for number. -/
def opcodeRowsAlu : List OpcodeRow :=
  [⟨"LUI", 0x3C000000, 0xFFE00000⟩,
   ⟨"ORI", 0x34000000, 0xFC000000⟩,
   ⟨"DADDIU", 0x64000000, 0xFC000000⟩,
   ⟨"SLTI", 0x28000000, 0xFC000000⟩,
   ⟨"SLTIU", 0x2C000000, 0xFC000000⟩,
   ⟨"OR", 0x00000025, 0xFC0007FF⟩,
   ⟨"SLT", 0x0000002A, 0xFC0007FF⟩,
   ⟨"SLTU", 0x0000002B, 0xFC0007FF⟩,
   ⟨"DADDU", 0x0000002D, 0xFC0007FF⟩,
   ⟨"DSUBU", 0x0000002F, 0xFC0007FF⟩]

/-- Rows of opcode_table.json, copied number for number. -/
def opcodeRowsShift : List OpcodeRow :=
  [⟨"SLL", 0x00000000, 0xFFE0003F⟩,
   ⟨"SRL", 0x00000002, 0xFFE0003F⟩,
   ⟨"SRA", 0x00000003, 0xFFE0003F⟩,
   ⟨"DSLL", 0x00000038, 0xFFE0003F⟩,
   ⟨"DSRL", 0x0000003A, 0xFFE0003F⟩,
   ⟨"DSRA", 0x0000003B, 0xFFE0003F⟩,
   ⟨"DSLL32", 0x0000003C, 0xFFE0003F⟩,
   ⟨"DSRL32", 0x0000003E, 0xFFE0003F⟩,
   ⟨"DSRA32", 0x0000003F, 0xFFE0003F⟩,
   ⟨"SLLV", 0x00000004, 0xFC0007FF⟩,
   ⟨"SRLV", 0x00000006, 0xFC0007FF⟩,
   ⟨"SRAV", 0x00000007, 0xFC0007FF⟩,
   ⟨"DSLLV", 0x00000014, 0xFC0007FF⟩,
   ⟨"DSRLV", 0x00000016, 0xFC0007FF⟩,
   ⟨"DSRAV", 0x00000017, 0xFC0007FF⟩]

/-- Rows of opcode_table.json, copied number for number. -/
def opcodeRowsMemory : List OpcodeRow :=
  [⟨"LB", 0x80000000, 0xFC000000⟩,
   ⟨"LBU", 0x90000000, 0xFC000000⟩,
   ⟨"LH", 0x84000000, 0xFC000000⟩,
   ⟨"LHU", 0x94000000, 0xFC000000⟩,
   ⟨"LW", 0x8C000000, 0xFC000000⟩,
   ⟨"LWU", 0x9C000000, 0xFC000000⟩,
   ⟨"LD", 0xDC000000, 0xFC000000⟩,
   ⟨"SB", 0xA0000000, 0xFC000000⟩,
   ⟨"SH", 0xA4000000, 0xFC000000⟩,
   ⟨"SW", 0xAC000000, 0xFC000000⟩,
   ⟨"SD", 0xFC000000, 0xFC000000⟩]

/-- Rows of opcode_table.json, copied number for number. -/
def opcodeRowsTransfer : List OpcodeRow :=
  [⟨"BEQ", 0x10000000, 0xFC000000⟩,
   ⟨"BNE", 0x14000000, 0xFC000000⟩,
   ⟨"J", 0x08000000, 0xFC000000⟩,
   ⟨"JR", 0x00000008, 0xFC1FFFFF⟩]

/-- The 40 rows of opcode_table.json. -/
def opcodeTable : List OpcodeRow :=
  opcodeRowsAlu ++ opcodeRowsShift ++ opcodeRowsMemory ++ opcodeRowsTransfer

/-- R120: the word is the row's instruction. -/
def OpcodeRow.admits (r : OpcodeRow) (w : InsWord) : Bool := w &&& r.mask == r.bits

/-- R118: the row of opcode_table.json an instruction belongs to, by its mnemonic. -/
def Instr.mnemonic : Instr → String
  | .lui _ _ => "LUI"
  | .ori _ _ _ => "ORI"
  | .daddiu _ _ _ => "DADDIU"
  | .slti _ _ _ => "SLTI"
  | .sltiu _ _ _ => "SLTIU"
  | .or _ _ _ => "OR"
  | .slt _ _ _ => "SLT"
  | .sltu _ _ _ => "SLTU"
  | .daddu _ _ _ => "DADDU"
  | .dsubu _ _ _ => "DSUBU"
  | .sll _ _ _ => "SLL"
  | .srl _ _ _ => "SRL"
  | .sra _ _ _ => "SRA"
  | .dsll _ _ _ => "DSLL"
  | .dsrl _ _ _ => "DSRL"
  | .dsra _ _ _ => "DSRA"
  | .dsll32 _ _ _ => "DSLL32"
  | .dsrl32 _ _ _ => "DSRL32"
  | .dsra32 _ _ _ => "DSRA32"
  | .sllv _ _ _ => "SLLV"
  | .srlv _ _ _ => "SRLV"
  | .srav _ _ _ => "SRAV"
  | .dsllv _ _ _ => "DSLLV"
  | .dsrlv _ _ _ => "DSRLV"
  | .dsrav _ _ _ => "DSRAV"
  | .lb _ _ _ => "LB"
  | .lbu _ _ _ => "LBU"
  | .lh _ _ _ => "LH"
  | .lhu _ _ _ => "LHU"
  | .lw _ _ _ => "LW"
  | .lwu _ _ _ => "LWU"
  | .ld _ _ _ => "LD"
  | .sb _ _ _ => "SB"
  | .sh _ _ _ => "SH"
  | .sw _ _ _ => "SW"
  | .sd _ _ _ => "SD"
  | .beq _ _ _ => "BEQ"
  | .bne _ _ _ => "BNE"
  | .j _ => "J"
  | .jr _ => "JR"

end Sys2Proof
end

