-- ==== Sys2Proof/Machine/MaskUnit.lean ====
section
/-! DEFINITION. The Memory Mask Unit (41_mask_unit.md): pure functions of a MemMask and doublewords. Byte 0 of a
doubleword is its most significant byte (R9, R161). -/

namespace Sys2Proof.Machine

/-- R160: the invariant of a MemMask. -/
def MemMask.legal (m : MemMask) : Bool := m.size + m.align ≤ 7

/-- R160, R170: a mask, or the contract fault. -/
def MemMask.make (size align : Nat) : Except Stop MemMask :=
  if size + align ≤ 7 then .ok { size := size, align := align } else .error (.fault .memMaskContract)

/-- R162: bit position of the least significant bit of the range. -/
def MemMask.shift (m : MemMask) : Nat := (7 - (m.align + m.size)) * 8

/-- R162: width of the range in bits. -/
def MemMask.len (m : MemMask) : Nat := (m.size + 1) * 8

/-- The 64-bit value with ones in the low `n` bits. -/
def ones (n : Nat) : Word := BitVec.ofNat 64 (2 ^ n - 1)

/-- R163. -/
def byteMask (m : MemMask) : BitVec 8 := BitVec.ofNat 8 ((2 ^ (m.size + 1) - 1) * 2 ^ m.align)

/-- R164. -/
def bitMask (m : MemMask) : Word := ones m.len <<< m.shift

/-- R165. -/
def extract (m : MemMask) (a : Word) : Word := (a >>> m.shift) &&& ones m.len

/-- R166: `extract`, then sign-extension from the top bit of the field. -/
def extractSigned (m : MemMask) (a : Word) : Word := ((extract m a).setWidth m.len).signExtend 64

/-- R167. -/
def clear (m : MemMask) (a : Word) : Word := a &&& ~~~ bitMask m

/-- R82, R167: the payload at its final bit position, zero elsewhere. -/
def positioned (m : MemMask) (b : Word) : Word := (b <<< m.shift) &&& bitMask m

/-- R167: `b` is a right-aligned payload. -/
def insert (m : MemMask) (a b : Word) : Word := clear m a ||| positioned m b

/-- R168: `b` is already at its final bit position. -/
def insertAligned (m : MemMask) (a b : Word) : Word := clear m a ||| (b &&& bitMask m)

/-- R9: byte `i` of a doubleword, counted from the most significant. -/
def byteOf (v : Word) (i : Nat) : Byte := v.extractLsb' (56 - 8 * i) 8

/-- R169: byte `i` of the multiplexer. -/
def muxByte (m : MemMask) (a b : Word) (i : Nat) : Byte :=
  if (byteMask m).getLsbD i then byteOf b i else byteOf a i

/-- R169: byte by byte, `b` where `byteMask` is set and `a` elsewhere. -/
def byteMux (m : MemMask) (a b : Word) : Word :=
  muxByte m a b 0 ++ muxByte m a b 1 ++ muxByte m a b 2 ++ muxByte m a b 3
    ++ muxByte m a b 4 ++ muxByte m a b 5 ++ muxByte m a b 6 ++ muxByte m a b 7

/-- R171: how many bits of a byte mask are set. -/
def popcount8 (b : BitVec 8) : Nat :=
  (List.range 8).countP (fun i => b.getLsbD i)

/-- R160: the 36 legal masks, by size and then align. -/
def legalMasks : List MemMask :=
  (List.range 8).flatMap fun size => (List.range (8 - size)).map fun align => { size := size, align := align }

end Sys2Proof.Machine
end

