-- ==== Sys2Proof/Machine/Ops.lean ====
section
/-! DEFINITION. The named operations over cache arrays, registers, addresses and the state, and the reset exception. -/

namespace Sys2Proof.Machine

/-! ### Sparse arrays -/

/-- The entry at index `k`; `d` is what an unlisted index reads as. -/
def Memory.get {α : Type} (d : α) : Memory α → Nat → α
  | [], _ => d
  | (k', v) :: rest, k => if k = k' then v else Memory.get d rest k

/-- Writes the entry at index `k`, keeping the canonical form: an entry equal to `d` is not listed. -/
def Memory.set {α : Type} [DecidableEq α] (d : α) : Memory α → Nat → α → Memory α
  | [], k, v => if v = d then [] else [(k, v)]
  | (k', v') :: rest, k, v =>
    if k < k' then (if v = d then (k', v') :: rest else (k, v) :: (k', v') :: rest)
    else if k = k' then (if v = d then rest else (k, v) :: rest)
    else (k', v') :: Memory.set d rest k v

/-- The canonical form: indices strictly rising, no entry equal to what an unlisted index reads as. -/
abbrev Memory.wf {α : Type} (d : α) (m : Memory α) : Prop :=
  m.Pairwise (fun x y => x.1 < y.1) ∧ ∀ e ∈ m, e.2 ≠ d

/-- The ICache line at an index. -/
def State.iline (s : State) (k : Nat) : ILine := Memory.get ILine.absent s.ic k

/-- The DCache line at an index. -/
def State.dline (s : State) (k : Nat) : DLine := Memory.get DLine.absent s.dc k

/-! ### Registers -/

/-- R25: the place of a register in the single index range. -/
def RegisterId.place : RegisterId → Fin 64
  | .integer n => ⟨n.val, by omega⟩
  | .float n => ⟨32 + n.val, by omega⟩

/-- R25, R31: a RegisterId from a bare index, as a caller other than a 5-bit field might present one; an index of 32
or more is a caller contract violation. -/
def RegisterId.port (isFloat : Bool) (n : Nat) : Except Stop RegisterId :=
  if h : n < 32 then .ok (if isFloat then .float ⟨n, h⟩ else .integer ⟨n, h⟩)
  else .error (.fault .registerIdOutOfRange)

/-- R26: a read port of the register file. -/
def State.reg (s : State) (r : RegisterId) : Word := s.rf[RegisterId.place r]

/-- R26, R27: the write port of the register file. -/
def State.setReg (s : State) (r : RegisterId) (v : Word) : State :=
  { s with rf := s.rf.set (RegisterId.place r) v }

/-- R29: `Integer(0)` when the controller treats it as the constant zero. `Float(0)` is never special. -/
def Config.isZeroRegister (c : Config) (r : RegisterId) : Bool :=
  c.r0HardwiredZero && r == .integer 0

/-- R10: the operand value of a register in the instruction-level reading, with R29. -/
def State.x (s : State) (r : RegisterId) : Word :=
  if Config.isZeroRegister s.cfg r then 0 else s.reg r

/-- R29: the destination an instruction really has. -/
def Config.realDest (c : Config) (r : RegisterId) : Option RegisterId :=
  if Config.isZeroRegister c r then none else some r

/-- R26, R273, R294: the write port with its option: at most one register is written. -/
def State.writeBack (s : State) : Option (RegisterId × Word) → State
  | none => s
  | some (r, v) => s.setReg r v

/-- `x[r] <- v` of R10 in the instruction-level reading, with R29. -/
def State.writeX (s : State) (r : RegisterId) (v : Word) : State :=
  match Config.realDest s.cfg r with
  | none => s
  | some d => s.setReg d v

/-! ### Addresses (R67) -/

/-- The address of the doubleword an address lies in: the low 3 bits cleared (R82). -/
def rowOf (a : Word) : Word := a &&& ~~~ (7 : Word)

/-- R67: `a[2:0]`. -/
def offsetOf (a : Word) : Nat := a.toNat % 8

/-- R67: the index of an address in a cache of `2 ^ bits` lines. -/
def indexOf (bits : Nat) (a : Word) : Nat := a.toNat / 8 % 2 ^ bits

/-- R67, R68: the tag of an address: every bit above the index. -/
def tagOf (bits : Nat) (a : Word) : Nat := a.toNat / 2 ^ (3 + bits)

def Config.iindex (c : Config) (a : Word) : Nat := indexOf c.iidxBits a
def Config.itag (c : Config) (a : Word) : Nat := tagOf c.iidxBits a
def Config.dindex (c : Config) (a : Word) : Nat := indexOf c.didxBits a
def Config.dtag (c : Config) (a : Word) : Nat := tagOf c.didxBits a

/-- R62: does a data access at `a` go to the DCache. The blocks are compared with the doubleword's address, so the
predicate is constant over each aligned doubleword (92_eei_decisions.md section 1): entry 14. -/
def Config.inCachedWindow (c : Config) (a : Word) : Bool :=
  !(c.external.any fun r => rowOf a &&& r.mask == r.value)

/-! ### Cache lookups -/

/-- R71: the ICache line of `a` is valid and has its tag. -/
def State.ihit (s : State) (a : Word) : Bool :=
  (s.iline (Config.iindex s.cfg a)).valid && (s.iline (Config.iindex s.cfg a)).tag == Config.itag s.cfg a

/-- R73: the DCache line of `a` is valid and has its tag. -/
def State.dhit (s : State) (a : Word) : Bool :=
  (s.dline (Config.dindex s.cfg a)).valid && (s.dline (Config.dindex s.cfg a)).tag == Config.dtag s.cfg a

/-- R66: the instruction at `a` in its line: the high word when `a[2] = 0`, the low word when `a[2] = 1`. -/
def wordInLine (a : Word) (data : Word) : InsWord :=
  if a.toNat / 4 % 2 = 0 then data.extractLsb' 32 32 else data.extractLsb' 0 32

/-- R66: the line with the instruction at `a` replaced. -/
def putWordInLine (a : Word) (data : Word) (w : InsWord) : Word :=
  if a.toNat / 4 % 2 = 0 then w ++ data.extractLsb' 0 32 else data.extractLsb' 32 32 ++ w

/-- R64, R73: the byte of data memory at `a`, as a load would see it; none where the access would miss. -/
def State.dataByte (s : State) (a : Word) : Option Byte :=
  if s.dhit a then some (byteOf (s.dline (Config.dindex s.cfg a)).data (offsetOf a)) else none

/-- R66, R71: the byte of instruction memory at `a`, as a fetch would see it; none where the fetch would miss. -/
def State.codeByte (s : State) (a : Word) : Option Byte :=
  if s.ihit a then some (byteOf (s.iline (Config.iindex s.cfg a)).data (offsetOf a)) else none

/-- R24, R287, R71, R72: the fetch at `pc`: the word on a hit, none on a miss. -/
def State.fetch (s : State) : Except Stop (Option InsWord) :=
  if s.pc.toNat % 4 ≠ 0 then .error (.fault .misalignedPc)
  else if s.ihit s.pc then .ok (some (wordInLine s.pc (s.iline (Config.iindex s.cfg s.pc)).data))
  else .ok none

/-! ### Data accesses (R78 to R85) -/

/-- What an access in the Memory stage comes to: a stall to be retried, or its result. -/
inductive Serviced (α : Type) where
  | stall (r : StallReason)
  | done (a : α)
  deriving DecidableEq, Repr

/-- R78, R220: the mask of an `n`-byte access, or the fault for a misaligned one, raised before any lookup. -/
def accessMask (addr : Word) (n : Nat) : Except Stop MemMask :=
  if addr.toNat % n ≠ 0 then .error (.fault .misalignedAccess)
  else MemMask.make (n - 1) (offsetOf addr)

/-- R73, R83: the lookup of a cached access: busy is tested before hit or miss. -/
def State.lookup (s : State) (addr : Word) : Serviced DLine :=
  if s.dcBusy then .stall .dataCacheBusy
  else if s.dhit addr then .done (s.dline (Config.dindex s.cfg addr))
  else .stall .dataCacheMiss

/-- R80, R85: `MemRead`, with `extractSigned` for a sign-extending load. -/
def State.memRead (s : State) (addr : Word) (n : Nat) (signed : Bool) : Except Stop (Serviced Word) :=
  match accessMask addr n with
  | .error e => .error e
  | .ok m =>
    if Config.inCachedWindow s.cfg addr then
      match s.lookup addr with
      | .stall r => .ok (.stall r)
      | .done line => .ok (.done (if signed then extractSigned m line.data else extract m line.data))
    else .error (.refuse .loadOutsideCachedWindow)

/-- A store committed to the DCache: the line, its new data, and the write record of R82. -/
structure StoreCommit where
  index : Nat
  newdata : Word
  record : DCacheWrite
  deriving DecidableEq, Repr

/-- What a store that completes does: a DCache commit (R81) or an external request (R84). -/
structure StoreEffect where
  commit : Option StoreCommit
  ext : Option ExternalRequest
  deriving DecidableEq, Repr

/-- R84: the request of an external store. -/
def externalStore (addr : Word) (m : MemMask) (v : Word) : ExternalRequest :=
  { address := addr, data := positioned m v, size := m.size, write := true }

/-- R81, R82: the commit of a store that hits `line`. -/
def Config.storeCommit (c : Config) (addr : Word) (m : MemMask) (v : Word) (line : DLine) : StoreCommit :=
  { index := Config.dindex c addr
    newdata := insert m line.data v
    record := { rowAddress := rowOf addr, mask := m, data := positioned m v } }

/-- R81, R84: `MemWrite`, up to its commit. -/
def State.memWrite (s : State) (addr : Word) (n : Nat) (v : Word) : Except Stop (Serviced StoreEffect) :=
  match accessMask addr n with
  | .error e => .error e
  | .ok m =>
    if Config.inCachedWindow s.cfg addr then
      match s.lookup addr with
      | .stall r => .ok (.stall r)
      | .done line => .ok (.done { commit := some (Config.storeCommit s.cfg addr m v line), ext := none })
    else .ok (.done { commit := none, ext := some (externalStore addr m v) })

/-- R81, R295: the committed store: data and dirty of its line (tag and valid stay), the busy flag, the record. -/
def State.commitStore (s : State) : Option StoreCommit → State
  | none => s
  | some c =>
    { s with
      dc := Memory.set DLine.absent s.dc c.index { s.dline c.index with data := c.newdata, dirty := true }
      dcBusy := true
      dcwrite := some c.record }

/-- R81, R84: a store's whole effect. -/
def State.applyStore (s : State) (e : StoreEffect) : State :=
  { s.commitStore e.commit with ext := e.ext }

/-! ### Inputs and fills (R46, R47, R74 to R77) -/

/-- The inputs of the coming cycle. -/
def State.nextInputs (s : State) : Inputs := s.inputs.headD Inputs.quiet

/-- The inputs of the coming cycle are taken. -/
def State.popInputs (s : State) : State := { s with inputs := s.inputs.tail }

/-- R74: the ICache after a fill. -/
def fillICache (ic : Memory ILine) : Option Fill → Memory ILine
  | none => ic
  | some f => Memory.set ILine.absent ic f.index { tag := f.tag, valid := true, data := f.data }

/-- R75: the DCache after a fill: the old line is discarded whatever its dirty bit. -/
def fillDCache (dc : Memory DLine) : Option Fill → Memory DLine
  | none => dc
  | some f => Memory.set DLine.absent dc f.index { tag := f.tag, valid := true, dirty := false, data := f.data }

/-- R76, R77, R295: the fills of the cycle, at its edge, after any store. -/
def State.applyFills (s : State) (inp : Inputs) : State :=
  { s with ic := fillICache s.ic inp.ifill, dc := fillDCache s.dc inp.dfill }

/-! ### The reset exception (R293, R330, R338) -/

/-- R293, R338, R361: taking the one exception, `ExceptionWB(Reset)`. Nothing is saved; `pc` goes to the reset vector;
the stage registers are emptied and `dc_busy` cleared; registers and caches are kept (the fills of the cycle are
applied by the caller). In the instruction-level reading `(cur, next)` starts over (R259). There is no return from it
(R339): the next cycle without reset is an ordinary one. -/
def State.takeReset (s : State) : State :=
  { s with
    wasReset := true
    pc := s.cfg.resetVector
    npc := s.cfg.resetVector + 4
    afterTaken := false
    dcBusy := false
    fd := none
    dx := none
    xm := none
    mw := none
    status := .exceptionWB .reset
    ext := none
    dcwrite := none }

/-! ### Completion of an instruction in the instruction-level reading (R259) -/

/-- R259: an ordinary instruction: `(cur, next) <- (next, next + 4)`; the cycle is `Ok` and, if nothing else is said,
no store was committed and nothing went out. -/
def State.advance (s : State) : State :=
  { s with
    pc := s.npc
    npc := s.npc + 4
    afterTaken := false
    dcBusy := false
    status := .ok
    ext := none
    dcwrite := none }

/-- R10, R259: an instruction whose whole effect is one register result. -/
def State.retire (s : State) (r : RegisterId) (v : Word) : State := (s.writeX r v).advance

/-- R88, R80, R81: an access that is not serviced has no effect and is tried again by the next step: entry 11. -/
def State.stalled (s : State) (r : StallReason) : State :=
  { s with dcBusy := false, status := .stall r, ext := none, dcwrite := none }

/-- R259: a control transfer: taken to `t`, `(cur, next) <- (next, t)`; untaken, an ordinary instruction. -/
def State.transfer (s : State) : Option Word → State
  | none => s.advance
  | some t => { s.advance with npc := t, afterTaken := true }

/-- R335: a reason to stop as the outcome of a step. -/
def Stop.outcome : Stop → Host.Outcome State Fault Refusal
  | .fault f => .fault f
  | .refuse r => .refused r

/-- R80, R221: a load of `n` bytes at `addr` into `rt`. -/
def State.load (s : State) (rt : RegisterId) (addr : Word) (n : Nat) (signed : Bool) :
    Host.Outcome State Fault Refusal :=
  match s.memRead addr n signed with
  | .error e => e.outcome
  | .ok (.stall r) => .next (s.stalled r)
  | .ok (.done v) => .next (s.retire rt v)

/-- R81, R84, R221: a store of the low `n` bytes of `v` at `addr`. -/
def State.store (s : State) (addr : Word) (n : Nat) (v : Word) : Host.Outcome State Fault Refusal :=
  match s.memWrite addr n v with
  | .error e => e.outcome
  | .ok (.stall r) => .next (s.stalled r)
  | .ok (.done e) => .next (s.advance.applyStore e)

/-- R250, R257: a control transfer with the target it redirects to, if it is taken; refused in the delay slot of a
taken transfer. -/
def State.branch (s : State) (target : Option Word) : Host.Outcome State Fault Refusal :=
  if s.afterTaken then .refused .controlTransferInDelaySlot else .next (s.transfer target)

/-! ### Placing an instruction (entry 8) -/

/-- The ICache line of `pc` made valid with the word at `pc` in it, as a fill of that line would (R74, R366); the
other instruction of the line is kept if the line was present. -/
def State.placeWord (s : State) (w : InsWord) : State :=
  { s with
    ic := Memory.set ILine.absent s.ic (Config.iindex s.cfg s.pc)
      { tag := Config.itag s.cfg s.pc
        valid := true
        data := putWordInLine s.pc
          (if s.ihit s.pc then (s.iline (Config.iindex s.cfg s.pc)).data else 0) w } }

/-- The instruction-level reading of a state: `(cur, next) = (pc, pc + 4)` when it was in the cycle reading (R259). -/
def State.atInstructionLevel (s : State) : State :=
  match s.reading with
  | .instruction => s
  | .cycle => { s with reading := .instruction, npc := s.pc + 4, afterTaken := false }

end Sys2Proof.Machine
end

