-- ==== Sys2Proof/Machine/Operands.lean ====
section
/-! DEFINITION. Every operand form: immediates (R115), effective addresses (R220), transfer targets (R252 to R255), and
the table of what the Decode stage needs to know of each instruction (R122). -/

namespace Sys2Proof.Machine

/-! ### Immediates (R115) -/

/-- `simm`: `sext_16(imm)`. -/
def simm (imm : BitVec 16) : Word := imm.signExtend 64
/-- `zimm`: `zext_16(imm)`. -/
def zimm (imm : BitVec 16) : Word := imm.setWidth 64
/-- `uimm`: `sext_32(imm || 0x0000)`. -/
def uimm (imm : BitVec 16) : Word := sext32 (imm ++ (0 : BitVec 16))
/-- `boff`: `sext_18(imm || 0b00)`. -/
def boff (imm : BitVec 16) : Word := (imm ++ (0 : BitVec 2)).signExtend 64
/-- `sa`: 0 to 31. -/
def shiftAmount (sa : BitVec 5) : Word := sa.setWidth 64
/-- `sa+32`: 32 to 63. -/
def shiftPlus32 (sa : BitVec 5) : Word := sa.setWidth 64 + 32

/-- R220: base plus sign-extended offset, modulo 2^64. -/
def effectiveAddress (base : Word) (imm : BitVec 16) : Word := alu .add64 base (simm imm)

/-- R252, R253: the target of a branch at `pc`, relative to its delay slot. -/
def branchTarget (pc : Word) (imm : BitVec 16) : Word := pc + 4 + boff imm

/-- R254: the target of a J at `pc`: the region is the delay slot's. -/
def jumpTarget (pc : Word) (target : BitVec 26) : Word :=
  (pc + 4).extractLsb' 28 36 ++ target ++ (0 : BitVec 2)

/-! ### What the Decode stage needs to know of an instruction (R122) -/

/-- R122: the registers the instruction really reads. -/
def sources : Instr → List RegisterId
  | .lui _ _ => []
  | .ori _ rs _ => [rs]
  | .daddiu _ rs _ => [rs]
  | .slti _ rs _ => [rs]
  | .sltiu _ rs _ => [rs]
  | .or _ rs rt => [rs, rt]
  | .slt _ rs rt => [rs, rt]
  | .sltu _ rs rt => [rs, rt]
  | .daddu _ rs rt => [rs, rt]
  | .dsubu _ rs rt => [rs, rt]
  | .sll _ rt _ => [rt]
  | .srl _ rt _ => [rt]
  | .sra _ rt _ => [rt]
  | .dsll _ rt _ => [rt]
  | .dsrl _ rt _ => [rt]
  | .dsra _ rt _ => [rt]
  | .dsll32 _ rt _ => [rt]
  | .dsrl32 _ rt _ => [rt]
  | .dsra32 _ rt _ => [rt]
  | .sllv _ rt rs => [rs, rt]
  | .srlv _ rt rs => [rs, rt]
  | .srav _ rt rs => [rs, rt]
  | .dsllv _ rt rs => [rs, rt]
  | .dsrlv _ rt rs => [rs, rt]
  | .dsrav _ rt rs => [rs, rt]
  | .lb _ rs _ => [rs]
  | .lbu _ rs _ => [rs]
  | .lh _ rs _ => [rs]
  | .lhu _ rs _ => [rs]
  | .lw _ rs _ => [rs]
  | .lwu _ rs _ => [rs]
  | .ld _ rs _ => [rs]
  | .sb rt rs _ => [rs, rt]
  | .sh rt rs _ => [rs, rt]
  | .sw rt rs _ => [rs, rt]
  | .sd rt rs _ => [rs, rt]
  | .beq rs rt _ => [rs, rt]
  | .bne rs rt _ => [rs, rt]
  | .j _ => []
  | .jr rs => [rs]

/-- R122: the destination field. -/
def destField : Instr → Option RegisterId
  | .lui rt _ => some rt
  | .ori rt _ _ => some rt
  | .daddiu rt _ _ => some rt
  | .slti rt _ _ => some rt
  | .sltiu rt _ _ => some rt
  | .or rd _ _ => some rd
  | .slt rd _ _ => some rd
  | .sltu rd _ _ => some rd
  | .daddu rd _ _ => some rd
  | .dsubu rd _ _ => some rd
  | .sll rd _ _ => some rd
  | .srl rd _ _ => some rd
  | .sra rd _ _ => some rd
  | .dsll rd _ _ => some rd
  | .dsrl rd _ _ => some rd
  | .dsra rd _ _ => some rd
  | .dsll32 rd _ _ => some rd
  | .dsrl32 rd _ _ => some rd
  | .dsra32 rd _ _ => some rd
  | .sllv rd _ _ => some rd
  | .srlv rd _ _ => some rd
  | .srav rd _ _ => some rd
  | .dsllv rd _ _ => some rd
  | .dsrlv rd _ _ => some rd
  | .dsrav rd _ _ => some rd
  | .lb rt _ _ => some rt
  | .lbu rt _ _ => some rt
  | .lh rt _ _ => some rt
  | .lhu rt _ _ => some rt
  | .lw rt _ _ => some rt
  | .lwu rt _ _ => some rt
  | .ld rt _ _ => some rt
  | .sb _ _ _ => none
  | .sh _ _ _ => none
  | .sw _ _ _ => none
  | .sd _ _ _ => none
  | .beq _ _ _ => none
  | .bne _ _ _ => none
  | .j _ => none
  | .jr _ => none

/-- R29, R274: `Dest(i)`, none for `Integer(0)` when it is hardwired. -/
def Config.dest (c : Config) (i : Instr) : Option RegisterId :=
  match destField i with
  | none => none
  | some r => Config.realDest c r

/-- R122: the ALU mode, none for a control transfer. -/
def aluMode : Instr → Option AluMode
  | .lui _ _ => some .passB
  | .ori _ _ _ => some .or
  | .daddiu _ _ _ => some .add64
  | .slti _ _ _ => some .setLess
  | .sltiu _ _ _ => some .setLessUnsigned
  | .or _ _ _ => some .or
  | .slt _ _ _ => some .setLess
  | .sltu _ _ _ => some .setLessUnsigned
  | .daddu _ _ _ => some .add64
  | .dsubu _ _ _ => some .sub64
  | .sll _ _ _ => some .shiftLeft32
  | .srl _ _ _ => some .shiftRight32
  | .sra _ _ _ => some .shiftRightArith32
  | .dsll _ _ _ => some .shiftLeft64
  | .dsrl _ _ _ => some .shiftRight64
  | .dsra _ _ _ => some .shiftRightArith64
  | .dsll32 _ _ _ => some .shiftLeft64
  | .dsrl32 _ _ _ => some .shiftRight64
  | .dsra32 _ _ _ => some .shiftRightArith64
  | .sllv _ _ _ => some .shiftLeft32
  | .srlv _ _ _ => some .shiftRight32
  | .srav _ _ _ => some .shiftRightArith32
  | .dsllv _ _ _ => some .shiftLeft64
  | .dsrlv _ _ _ => some .shiftRight64
  | .dsrav _ _ _ => some .shiftRightArith64
  | .lb _ _ _ => some .add64
  | .lbu _ _ _ => some .add64
  | .lh _ _ _ => some .add64
  | .lhu _ _ _ => some .add64
  | .lw _ _ _ => some .add64
  | .lwu _ _ _ => some .add64
  | .ld _ _ _ => some .add64
  | .sb _ _ _ => some .add64
  | .sh _ _ _ => some .add64
  | .sw _ _ _ => some .add64
  | .sd _ _ _ => some .add64
  | .beq _ _ _ => none
  | .bne _ _ _ => none
  | .j _ => none
  | .jr _ => none

/-- R122: the two ALU operands, from the operand values `v`. An operand the table calls unused is 0: entry 10. -/
def aluOperands (v : RegisterId → Word) : Instr → Word × Word
  | .lui _ imm => (0, uimm imm)
  | .ori _ rs imm => (v rs, zimm imm)
  | .daddiu _ rs imm => (v rs, simm imm)
  | .slti _ rs imm => (v rs, simm imm)
  | .sltiu _ rs imm => (v rs, simm imm)
  | .or _ rs rt => (v rs, v rt)
  | .slt _ rs rt => (v rs, v rt)
  | .sltu _ rs rt => (v rs, v rt)
  | .daddu _ rs rt => (v rs, v rt)
  | .dsubu _ rs rt => (v rs, v rt)
  | .sll _ rt sa => (v rt, shiftAmount sa)
  | .srl _ rt sa => (v rt, shiftAmount sa)
  | .sra _ rt sa => (v rt, shiftAmount sa)
  | .dsll _ rt sa => (v rt, shiftAmount sa)
  | .dsrl _ rt sa => (v rt, shiftAmount sa)
  | .dsra _ rt sa => (v rt, shiftAmount sa)
  | .dsll32 _ rt sa => (v rt, shiftPlus32 sa)
  | .dsrl32 _ rt sa => (v rt, shiftPlus32 sa)
  | .dsra32 _ rt sa => (v rt, shiftPlus32 sa)
  | .sllv _ rt rs => (v rt, v rs)
  | .srlv _ rt rs => (v rt, v rs)
  | .srav _ rt rs => (v rt, v rs)
  | .dsllv _ rt rs => (v rt, v rs)
  | .dsrlv _ rt rs => (v rt, v rs)
  | .dsrav _ rt rs => (v rt, v rs)
  | .lb _ rs imm => (v rs, simm imm)
  | .lbu _ rs imm => (v rs, simm imm)
  | .lh _ rs imm => (v rs, simm imm)
  | .lhu _ rs imm => (v rs, simm imm)
  | .lw _ rs imm => (v rs, simm imm)
  | .lwu _ rs imm => (v rs, simm imm)
  | .ld _ rs imm => (v rs, simm imm)
  | .sb _ rs imm => (v rs, simm imm)
  | .sh _ rs imm => (v rs, simm imm)
  | .sw _ rs imm => (v rs, simm imm)
  | .sd _ rs imm => (v rs, simm imm)
  | .beq _ _ _ => (0, 0)
  | .bne _ _ _ => (0, 0)
  | .j _ => (0, 0)
  | .jr _ => (0, 0)

/-- R122, R36: the store data, for stores only; 0 otherwise (entry 10). -/
def storeData (v : RegisterId → Word) : Instr → Word
  | .lui _ _ => 0
  | .ori _ _ _ => 0
  | .daddiu _ _ _ => 0
  | .slti _ _ _ => 0
  | .sltiu _ _ _ => 0
  | .or _ _ _ => 0
  | .slt _ _ _ => 0
  | .sltu _ _ _ => 0
  | .daddu _ _ _ => 0
  | .dsubu _ _ _ => 0
  | .sll _ _ _ => 0
  | .srl _ _ _ => 0
  | .sra _ _ _ => 0
  | .dsll _ _ _ => 0
  | .dsrl _ _ _ => 0
  | .dsra _ _ _ => 0
  | .dsll32 _ _ _ => 0
  | .dsrl32 _ _ _ => 0
  | .dsra32 _ _ _ => 0
  | .sllv _ _ _ => 0
  | .srlv _ _ _ => 0
  | .srav _ _ _ => 0
  | .dsllv _ _ _ => 0
  | .dsrlv _ _ _ => 0
  | .dsrav _ _ _ => 0
  | .lb _ _ _ => 0
  | .lbu _ _ _ => 0
  | .lh _ _ _ => 0
  | .lhu _ _ _ => 0
  | .lw _ _ _ => 0
  | .lwu _ _ _ => 0
  | .ld _ _ _ => 0
  | .sb rt _ _ => v rt
  | .sh rt _ _ => v rt
  | .sw rt _ _ => v rt
  | .sd rt _ _ => v rt
  | .beq _ _ _ => 0
  | .bne _ _ _ => 0
  | .j _ => 0
  | .jr _ => 0

/-- What the Memory stage does for an instruction: a load of some bytes, sign-extended or not, or a store. -/
inductive Access where
  | load (bytes : Nat) (signed : Bool)
  | store (bytes : Nat)
  deriving DecidableEq, Repr

/-- R222 to R232: width and kind of the access. -/
def accessOf : Instr → Option Access
  | .lui _ _ => none
  | .ori _ _ _ => none
  | .daddiu _ _ _ => none
  | .slti _ _ _ => none
  | .sltiu _ _ _ => none
  | .or _ _ _ => none
  | .slt _ _ _ => none
  | .sltu _ _ _ => none
  | .daddu _ _ _ => none
  | .dsubu _ _ _ => none
  | .sll _ _ _ => none
  | .srl _ _ _ => none
  | .sra _ _ _ => none
  | .dsll _ _ _ => none
  | .dsrl _ _ _ => none
  | .dsra _ _ _ => none
  | .dsll32 _ _ _ => none
  | .dsrl32 _ _ _ => none
  | .dsra32 _ _ _ => none
  | .sllv _ _ _ => none
  | .srlv _ _ _ => none
  | .srav _ _ _ => none
  | .dsllv _ _ _ => none
  | .dsrlv _ _ _ => none
  | .dsrav _ _ _ => none
  | .lb _ _ _ => some (.load 1 true)
  | .lbu _ _ _ => some (.load 1 false)
  | .lh _ _ _ => some (.load 2 true)
  | .lhu _ _ _ => some (.load 2 false)
  | .lw _ _ _ => some (.load 4 true)
  | .lwu _ _ _ => some (.load 4 false)
  | .ld _ _ _ => some (.load 8 false)
  | .sb _ _ _ => some (.store 1)
  | .sh _ _ _ => some (.store 2)
  | .sw _ _ _ => some (.store 4)
  | .sd _ _ _ => some (.store 8)
  | .beq _ _ _ => none
  | .bne _ _ _ => none
  | .j _ => none
  | .jr _ => none

/-- R251: BEQ, BNE, J, JR. -/
def isTransfer : Instr → Bool
  | .lui _ _ => false
  | .ori _ _ _ => false
  | .daddiu _ _ _ => false
  | .slti _ _ _ => false
  | .sltiu _ _ _ => false
  | .or _ _ _ => false
  | .slt _ _ _ => false
  | .sltu _ _ _ => false
  | .daddu _ _ _ => false
  | .dsubu _ _ _ => false
  | .sll _ _ _ => false
  | .srl _ _ _ => false
  | .sra _ _ _ => false
  | .dsll _ _ _ => false
  | .dsrl _ _ _ => false
  | .dsra _ _ _ => false
  | .dsll32 _ _ _ => false
  | .dsrl32 _ _ _ => false
  | .dsra32 _ _ _ => false
  | .sllv _ _ _ => false
  | .srlv _ _ _ => false
  | .srav _ _ _ => false
  | .dsllv _ _ _ => false
  | .dsrlv _ _ _ => false
  | .dsrav _ _ _ => false
  | .lb _ _ _ => false
  | .lbu _ _ _ => false
  | .lh _ _ _ => false
  | .lhu _ _ _ => false
  | .lw _ _ _ => false
  | .lwu _ _ _ => false
  | .ld _ _ _ => false
  | .sb _ _ _ => false
  | .sh _ _ _ => false
  | .sw _ _ _ => false
  | .sd _ _ _ => false
  | .beq _ _ _ => true
  | .bne _ _ _ => true
  | .j _ => true
  | .jr _ => true

/-- R252 to R255, R281: the address an instruction at `pc` redirects to, if it does. -/
def redirectOf (pc : Word) (v : RegisterId → Word) : Instr → Option Word
  | .lui _ _ => none
  | .ori _ _ _ => none
  | .daddiu _ _ _ => none
  | .slti _ _ _ => none
  | .sltiu _ _ _ => none
  | .or _ _ _ => none
  | .slt _ _ _ => none
  | .sltu _ _ _ => none
  | .daddu _ _ _ => none
  | .dsubu _ _ _ => none
  | .sll _ _ _ => none
  | .srl _ _ _ => none
  | .sra _ _ _ => none
  | .dsll _ _ _ => none
  | .dsrl _ _ _ => none
  | .dsra _ _ _ => none
  | .dsll32 _ _ _ => none
  | .dsrl32 _ _ _ => none
  | .dsra32 _ _ _ => none
  | .sllv _ _ _ => none
  | .srlv _ _ _ => none
  | .srav _ _ _ => none
  | .dsllv _ _ _ => none
  | .dsrlv _ _ _ => none
  | .dsrav _ _ _ => none
  | .lb _ _ _ => none
  | .lbu _ _ _ => none
  | .lh _ _ _ => none
  | .lhu _ _ _ => none
  | .lw _ _ _ => none
  | .lwu _ _ _ => none
  | .ld _ _ _ => none
  | .sb _ _ _ => none
  | .sh _ _ _ => none
  | .sw _ _ _ => none
  | .sd _ _ _ => none
  | .beq rs rt imm => if v rs = v rt then some (branchTarget pc imm) else none
  | .bne rs rt imm => if v rs ≠ v rt then some (branchTarget pc imm) else none
  | .j target => some (jumpTarget pc target)
  | .jr rs => some (v rs)

end Sys2Proof.Machine
end

