-- ==== Sys2Proof/Machine/AluImmediate.lean ====
section
/-! DEFINITION. The immediate ALU forms, R180 to R184, each from its own rule. One ALU result to one register (R205). -/

namespace Sys2Proof.Machine

/-- R180: `x[rt] <- sext_32(imm || 0x0000)`. -/
def execLui (rt : RegisterId) (imm : BitVec 16) (s : State) : Host.Outcome State Fault Refusal :=
  .next (s.retire rt (alu .passB 0 (uimm imm)))

/-- R181: `x[rt] <- Or(x[rs], zext_16(imm))`. -/
def execOri (rt rs : RegisterId) (imm : BitVec 16) (s : State) : Host.Outcome State Fault Refusal :=
  .next (s.retire rt (alu .or (s.x rs) (zimm imm)))

/-- R182: `x[rt] <- Add64(x[rs], sext_16(imm))`. -/
def execDaddiu (rt rs : RegisterId) (imm : BitVec 16) (s : State) : Host.Outcome State Fault Refusal :=
  .next (s.retire rt (alu .add64 (s.x rs) (simm imm)))

/-- R183: `x[rt] <- SetLess(x[rs], sext_16(imm))`. -/
def execSlti (rt rs : RegisterId) (imm : BitVec 16) (s : State) : Host.Outcome State Fault Refusal :=
  .next (s.retire rt (alu .setLess (s.x rs) (simm imm)))

/-- R184: `x[rt] <- SetLessUnsigned(x[rs], sext_16(imm))`. -/
def execSltiu (rt rs : RegisterId) (imm : BitVec 16) (s : State) : Host.Outcome State Fault Refusal :=
  .next (s.retire rt (alu .setLessUnsigned (s.x rs) (simm imm)))

end Sys2Proof.Machine
end

