-- ==== Sys2Proof/Machine/AluRegister.lean ====
section
/-! DEFINITION. The three-register ALU forms, R185 to R189. -/

namespace Sys2Proof.Machine

/-- R185: `x[rd] <- Or(x[rs], x[rt])`. -/
def execOr (rd rs rt : RegisterId) (s : State) : Host.Outcome State Fault Refusal :=
  .next (s.retire rd (alu .or (s.x rs) (s.x rt)))

/-- R186: `x[rd] <- SetLess(x[rs], x[rt])`. -/
def execSlt (rd rs rt : RegisterId) (s : State) : Host.Outcome State Fault Refusal :=
  .next (s.retire rd (alu .setLess (s.x rs) (s.x rt)))

/-- R187: `x[rd] <- SetLessUnsigned(x[rs], x[rt])`. -/
def execSltu (rd rs rt : RegisterId) (s : State) : Host.Outcome State Fault Refusal :=
  .next (s.retire rd (alu .setLessUnsigned (s.x rs) (s.x rt)))

/-- R188: `x[rd] <- Add64(x[rs], x[rt])`. -/
def execDaddu (rd rs rt : RegisterId) (s : State) : Host.Outcome State Fault Refusal :=
  .next (s.retire rd (alu .add64 (s.x rs) (s.x rt)))

/-- R189: `x[rd] <- Sub64(x[rs], x[rt])`. -/
def execDsubu (rd rs rt : RegisterId) (s : State) : Host.Outcome State Fault Refusal :=
  .next (s.retire rd (alu .sub64 (s.x rs) (s.x rt)))

end Sys2Proof.Machine
end

