-- ==== Sys2Proof/Machine/Control.lean ====
section
/-! DEFINITION. The control transfers, R252 to R255, each with one delay slot (R250). -/

namespace Sys2Proof.Machine

/-- R252: taken when all 64 bits of x[rs] and x[rt] are equal. -/
def execBeq (rs rt : RegisterId) (imm : BitVec 16) (s : State) : Host.Outcome State Fault Refusal :=
  s.branch (if s.x rs = s.x rt then some (branchTarget s.pc imm) else none)

/-- R253: taken when x[rs] and x[rt] differ. -/
def execBne (rs rt : RegisterId) (imm : BitVec 16) (s : State) : Host.Outcome State Fault Refusal :=
  s.branch (if s.x rs = s.x rt then none else some (branchTarget s.pc imm))

/-- R254: always taken, within the region of the delay slot. -/
def execJ (target : BitVec 26) (s : State) : Host.Outcome State Fault Refusal :=
  s.branch (some (jumpTarget s.pc target))

/-- R255: always taken, to x[rs]. -/
def execJr (rs : RegisterId) (s : State) : Host.Outcome State Fault Refusal :=
  s.branch (some (s.x rs))

end Sys2Proof.Machine
end

