-- ==== Sys2Proof/Machine/Load.lean ====
section
/-! DEFINITION. The loads, R222 to R228: `MemRead` (R80) at `x[rs] + sext_16(imm)` (R220). -/

namespace Sys2Proof.Machine

/-- R222: 1 byte, `extractSigned`. -/
def execLb (rt rs : RegisterId) (imm : BitVec 16) (s : State) : Host.Outcome State Fault Refusal :=
  s.load rt (effectiveAddress (s.x rs) imm) 1 true

/-- R223: 1 byte, `extract`. -/
def execLbu (rt rs : RegisterId) (imm : BitVec 16) (s : State) : Host.Outcome State Fault Refusal :=
  s.load rt (effectiveAddress (s.x rs) imm) 1 false

/-- R224: 2 bytes, `extractSigned`. -/
def execLh (rt rs : RegisterId) (imm : BitVec 16) (s : State) : Host.Outcome State Fault Refusal :=
  s.load rt (effectiveAddress (s.x rs) imm) 2 true

/-- R225: 2 bytes, `extract`. -/
def execLhu (rt rs : RegisterId) (imm : BitVec 16) (s : State) : Host.Outcome State Fault Refusal :=
  s.load rt (effectiveAddress (s.x rs) imm) 2 false

/-- R226: 4 bytes, `extractSigned`. -/
def execLw (rt rs : RegisterId) (imm : BitVec 16) (s : State) : Host.Outcome State Fault Refusal :=
  s.load rt (effectiveAddress (s.x rs) imm) 4 true

/-- R227: 4 bytes, `extract`. -/
def execLwu (rt rs : RegisterId) (imm : BitVec 16) (s : State) : Host.Outcome State Fault Refusal :=
  s.load rt (effectiveAddress (s.x rs) imm) 4 false

/-- R228: 8 bytes, `extract`. -/
def execLd (rt rs : RegisterId) (imm : BitVec 16) (s : State) : Host.Outcome State Fault Refusal :=
  s.load rt (effectiveAddress (s.x rs) imm) 8 false

end Sys2Proof.Machine
end

