-- ==== Sys2Proof/Machine/Shift32.lean ====
section
/-! DEFINITION. The 32-bit shifts, R190 to R195: the low word of x[rt], a sign-extended result (R148). -/

namespace Sys2Proof.Machine

/-- R190: `x[rd] <- ShiftLeft32(x[rt], sa)`. -/
def execSll (rd rt : RegisterId) (sa : BitVec 5) (s : State) : Host.Outcome State Fault Refusal :=
  .next (s.retire rd (alu .shiftLeft32 (s.x rt) (shiftAmount sa)))

/-- R191: `x[rd] <- ShiftRight32(x[rt], sa)`. -/
def execSrl (rd rt : RegisterId) (sa : BitVec 5) (s : State) : Host.Outcome State Fault Refusal :=
  .next (s.retire rd (alu .shiftRight32 (s.x rt) (shiftAmount sa)))

/-- R192: `x[rd] <- ShiftRightArith32(x[rt], sa)`. -/
def execSra (rd rt : RegisterId) (sa : BitVec 5) (s : State) : Host.Outcome State Fault Refusal :=
  .next (s.retire rd (alu .shiftRightArith32 (s.x rt) (shiftAmount sa)))

/-- R193: `x[rd] <- ShiftLeft32(x[rt], x[rs])`. -/
def execSllv (rd rt rs : RegisterId) (s : State) : Host.Outcome State Fault Refusal :=
  .next (s.retire rd (alu .shiftLeft32 (s.x rt) (s.x rs)))

/-- R194: `x[rd] <- ShiftRight32(x[rt], x[rs])`. -/
def execSrlv (rd rt rs : RegisterId) (s : State) : Host.Outcome State Fault Refusal :=
  .next (s.retire rd (alu .shiftRight32 (s.x rt) (s.x rs)))

/-- R195: `x[rd] <- ShiftRightArith32(x[rt], x[rs])`. -/
def execSrav (rd rt rs : RegisterId) (s : State) : Host.Outcome State Fault Refusal :=
  .next (s.retire rd (alu .shiftRightArith32 (s.x rt) (s.x rs)))

end Sys2Proof.Machine
end

