-- ==== Sys2Proof/Machine/Shift64.lean ====
section
/-! DEFINITION. The 64-bit shifts, R196 to R204. -/

namespace Sys2Proof.Machine

/-- R196: `x[rd] <- ShiftLeft64(x[rt], sa)`. -/
def execDsll (rd rt : RegisterId) (sa : BitVec 5) (s : State) : Host.Outcome State Fault Refusal :=
  .next (s.retire rd (alu .shiftLeft64 (s.x rt) (shiftAmount sa)))

/-- R197: `x[rd] <- ShiftRight64(x[rt], sa)`. -/
def execDsrl (rd rt : RegisterId) (sa : BitVec 5) (s : State) : Host.Outcome State Fault Refusal :=
  .next (s.retire rd (alu .shiftRight64 (s.x rt) (shiftAmount sa)))

/-- R198: `x[rd] <- ShiftRightArith64(x[rt], sa)`. -/
def execDsra (rd rt : RegisterId) (sa : BitVec 5) (s : State) : Host.Outcome State Fault Refusal :=
  .next (s.retire rd (alu .shiftRightArith64 (s.x rt) (shiftAmount sa)))

/-- R199: `x[rd] <- ShiftLeft64(x[rt], x[rs])`. -/
def execDsllv (rd rt rs : RegisterId) (s : State) : Host.Outcome State Fault Refusal :=
  .next (s.retire rd (alu .shiftLeft64 (s.x rt) (s.x rs)))

/-- R200: `x[rd] <- ShiftRight64(x[rt], x[rs])`. -/
def execDsrlv (rd rt rs : RegisterId) (s : State) : Host.Outcome State Fault Refusal :=
  .next (s.retire rd (alu .shiftRight64 (s.x rt) (s.x rs)))

/-- R201: `x[rd] <- ShiftRightArith64(x[rt], x[rs])`. -/
def execDsrav (rd rt rs : RegisterId) (s : State) : Host.Outcome State Fault Refusal :=
  .next (s.retire rd (alu .shiftRightArith64 (s.x rt) (s.x rs)))

/-- R202: `x[rd] <- ShiftLeft64(x[rt], sa + 32)`. -/
def execDsll32 (rd rt : RegisterId) (sa : BitVec 5) (s : State) : Host.Outcome State Fault Refusal :=
  .next (s.retire rd (alu .shiftLeft64 (s.x rt) (shiftPlus32 sa)))

/-- R203: `x[rd] <- ShiftRight64(x[rt], sa + 32)`. -/
def execDsrl32 (rd rt : RegisterId) (sa : BitVec 5) (s : State) : Host.Outcome State Fault Refusal :=
  .next (s.retire rd (alu .shiftRight64 (s.x rt) (shiftPlus32 sa)))

/-- R204: `x[rd] <- ShiftRightArith64(x[rt], sa + 32)`. -/
def execDsra32 (rd rt : RegisterId) (sa : BitVec 5) (s : State) : Host.Outcome State Fault Refusal :=
  .next (s.retire rd (alu .shiftRightArith64 (s.x rt) (shiftPlus32 sa)))

end Sys2Proof.Machine
end

