-- ==== Sys2Proof/Machine/Store.lean ====
section
/-! DEFINITION. The stores, R229 to R232: `MemWrite` (R81) of x[rt] at `x[rs] + sext_16(imm)` (R220). -/

namespace Sys2Proof.Machine

/-- R229: `MemWrite(addr, 1, x[rt])`. -/
def execSb (rt rs : RegisterId) (imm : BitVec 16) (s : State) : Host.Outcome State Fault Refusal :=
  s.store (effectiveAddress (s.x rs) imm) 1 (s.x rt)

/-- R230: `MemWrite(addr, 2, x[rt])`. -/
def execSh (rt rs : RegisterId) (imm : BitVec 16) (s : State) : Host.Outcome State Fault Refusal :=
  s.store (effectiveAddress (s.x rs) imm) 2 (s.x rt)

/-- R231: `MemWrite(addr, 4, x[rt])`. -/
def execSw (rt rs : RegisterId) (imm : BitVec 16) (s : State) : Host.Outcome State Fault Refusal :=
  s.store (effectiveAddress (s.x rs) imm) 4 (s.x rt)

/-- R232: `MemWrite(addr, 8, x[rt])`. -/
def execSd (rt rs : RegisterId) (imm : BitVec 16) (s : State) : Host.Outcome State Fault Refusal :=
  s.store (effectiveAddress (s.x rs) imm) 8 (s.x rt)

end Sys2Proof.Machine
end

