-- ==== Sys2Proof/Machine/Flags.lean ====
section
/-! DEFINITION. CORE has no flags and no condition codes (R142, 10_state.md section 1); a compare writes 0 or 1 to a
register (R145, R146). The one status-like object is PipelineStatus, an output (R43); this file computes it (R290). -/

namespace Sys2Proof.Machine

/-- R290, R337: the status of a cycle. When several conditions hold, the first in this order: reset, the stall the
Memory stage asks for, the load interlock, the fetch miss. -/
def statusOf (reset : Bool) (memoryStall : Option StallReason) (interlock : Bool) (fetchHit : Bool) : PipelineStatus :=
  if reset then .exceptionWB .reset
  else
    match memoryStall with
    | some r => .stall r
    | none =>
      if interlock then .stall .loadInterlock
      else if fetchHit then .ok
      else .stall .instructionCacheBusy

/-- R291, R292: the statuses in which the stages from Execute on advance and commit. -/
def PipelineStatus.commits : PipelineStatus → Bool
  | .ok => true
  | .stall .loadInterlock => true
  | _ => false

end Sys2Proof.Machine
end

