-- ==== Sys2Proof/Machine/Pipeline.lean ====
section
/-! DEFINITION. The pipeline controller, one clock cycle (45_pipeline_controller.md): the five stage functions on the
state at the start of the cycle (R271 to R287), the bypass network and the interlock (R283, R286), and the commit
(R291 to R296). -/

namespace Sys2Proof.Machine

/-! ### Writeback (R273) -/

/-- R273: the register write request of the cycle, which is also the third bypass source. -/
def writebackStage (s : State) : Option (RegisterId × Word) :=
  match s.mw with
  | none => none
  | some r =>
    match r.dest with
    | none => none
    | some d => some (d, r.value)

/-! ### Memory (R274) -/

/-- R274: what the Memory stage gives: a stall request, or a completed record with perhaps a bypass value and a store's
effect. -/
structure MemoryResult where
  stall : Option StallReason
  next : Option MemoryWriteback
  fwd : Option (RegisterId × Word)
  store : StoreEffect
  deriving DecidableEq, Repr

/-- No effect on the caches or the bus. -/
def StoreEffect.none : StoreEffect := { commit := Option.none, ext := Option.none }

/-- R274: an empty Memory stage. -/
def MemoryResult.empty : MemoryResult := { stall := none, next := none, fwd := none, store := StoreEffect.none }

/-- R274, R88: a stalled access: no effect. -/
def MemoryResult.stalled (r : StallReason) : MemoryResult := { MemoryResult.empty with stall := some r }

/-- R274: a completed instruction with a register result: it is a bypass source if it has a destination (R284). -/
def MemoryResult.result (r : ExecuteMemory) (dest : Option RegisterId) (value : Word) : MemoryResult :=
  { stall := none
    next := some { pc := r.pc, ins := r.ins, dest := dest, value := value }
    fwd := dest.map fun d => (d, value)
    store := StoreEffect.none }

/-- R274: a completed instruction without one. -/
def MemoryResult.effect (r : ExecuteMemory) (e : StoreEffect) : MemoryResult :=
  { stall := none
    next := some { pc := r.pc, ins := r.ins, dest := none, value := 0 }
    fwd := none
    store := e }

/-- R274: the Memory stage. -/
def memoryStage (s : State) : Except Stop MemoryResult :=
  match s.xm with
  | none => .ok MemoryResult.empty
  | some r =>
    match accessOf r.ins with
    | some (.load n signed) =>
      match s.memRead r.result n signed with
      | .error e => .error e
      | .ok (.stall why) => .ok (MemoryResult.stalled why)
      | .ok (.done v) => .ok (MemoryResult.result r (Config.dest s.cfg r.ins) v)
    | some (.store n) =>
      match s.memWrite r.result n r.sdata with
      | .error e => .error e
      | .ok (.stall why) => .ok (MemoryResult.stalled why)
      | .ok (.done e) => .ok (MemoryResult.effect r e)
    | none =>
      if isTransfer r.ins then .ok (MemoryResult.effect r StoreEffect.none)
      else .ok (MemoryResult.result r (Config.dest s.cfg r.ins) r.result)

/-! ### Execute (R280) -/

/-- R280: what the Execute stage gives. -/
structure ExecuteResult where
  next : Option ExecuteMemory
  fwd : Option (RegisterId × Word)
  loadDest : Option RegisterId
  deriving DecidableEq, Repr

/-- R280: the ALU result of an instruction in Execute; 0 for a control transfer. -/
def executeResult (r : DecodeExecute) : Word :=
  match aluMode r.ins with
  | some mode => alu mode r.a r.b
  | none => 0

/-- R280: the instruction is an alu instruction: it has an ALU mode and makes no access. -/
def isAlu (i : Instr) : Bool := (aluMode i).isSome && (accessOf i).isNone

/-- R280: the instruction is a load. -/
def isLoad (i : Instr) : Bool :=
  match accessOf i with
  | some (.load _ _) => true
  | _ => false

/-- R280: the Execute stage. -/
def executeStage (s : State) : ExecuteResult :=
  match s.dx with
  | none => { next := none, fwd := none, loadDest := none }
  | some r =>
    { next := some { pc := r.pc, ins := r.ins, result := executeResult r, sdata := r.sdata }
      fwd := if isAlu r.ins then (Config.dest s.cfg r.ins).map fun d => (d, executeResult r) else none
      loadDest := if isLoad r.ins then Config.dest s.cfg r.ins else none }

/-! ### The bypass network and the interlock (R283, R286) -/

/-- One bypass source offers a value for `r`. -/
def offers (src : Option (RegisterId × Word)) (r : RegisterId) : Option Word :=
  match src with
  | none => none
  | some (d, v) => if d = r then some v else none

/-- R283 steps 0 and 1, R286: the source register interlocks: a load in Execute writes it. -/
def interlocks (c : Config) (x : ExecuteResult) (r : RegisterId) : Bool :=
  !Config.isZeroRegister c r && x.loadDest == some r

/-- R283 steps 0 and 2 to 5: the operand value of a source register that does not interlock; the youngest producer
wins, then the register file. -/
def operandValue (s : State) (x : ExecuteResult) (m : MemoryResult) (w : Option (RegisterId × Word))
    (r : RegisterId) : Word :=
  if Config.isZeroRegister s.cfg r then 0
  else
    match offers x.fwd r with
    | some v => v
    | none =>
      match offers m.fwd r with
      | some v => v
      | none =>
        match offers w r with
        | some v => v
        | none => s.reg r

/-! ### Decode (R281) -/

/-- R281: what the Decode stage gives. -/
structure DecodeResult where
  next : Option DecodeExecute
  interlock : Bool
  redirect : Option Word
  deriving DecidableEq, Repr

/-- R281: an empty Decode stage, or one that was not evaluated. -/
def DecodeResult.empty : DecodeResult := { next := none, interlock := false, redirect := none }

/-- R282: the instruction in Decode is in the delay slot of a taken transfer. -/
def State.inDelaySlot (s : State) : Bool :=
  match s.dx with
  | none => false
  | some r => r.taken

/-- R281: an instruction whose operands are all there. -/
def issue (pc : Word) (i : Instr) (v : RegisterId → Word) : DecodeResult :=
  { next := some
      { pc := pc
        ins := i
        a := (aluOperands v i).1
        b := (aluOperands v i).2
        sdata := storeData v i
        taken := (redirectOf pc v i).isSome }
    interlock := false
    redirect := redirectOf pc v i }

/-- R281: the Decode stage, evaluated only when the Memory stage requests no stall. -/
def decodeStage (s : State) (x : ExecuteResult) (m : MemoryResult) (w : Option (RegisterId × Word)) :
    Except Stop DecodeResult :=
  match s.fd with
  | none => .ok DecodeResult.empty
  | some f =>
    match decode f.word with
    | .error _ => .error (.refuse (.unadmittedEncoding f.word))
    | .ok i =>
      if isTransfer i && s.inDelaySlot then .error (.refuse .controlTransferInDelaySlot)
      else if (sources i).any (interlocks s.cfg x) then .ok { DecodeResult.empty with interlock := true }
      else .ok (issue f.pc i (operandValue s x m w))

/-- R281, R296: Decode in a cycle in which the Memory stage asks for a stall is not evaluated. -/
def decodeUnlessStalled (s : State) (x : ExecuteResult) (m : MemoryResult) (w : Option (RegisterId × Word)) :
    Except Stop DecodeResult :=
  match m.stall with
  | some _ => .ok DecodeResult.empty
  | none => decodeStage s x m w

/-! ### Fetch (R287) -/

/-- R287: the Fetch stage: the next `fd`, or none on a miss. -/
def fetchStage (s : State) : Except Stop (Option FetchDecode) :=
  match s.fetch with
  | .error e => .error e
  | .ok none => .ok none
  | .ok (some w) => .ok (some { pc := s.pc, word := w })

/-! ### The whole cycle (R291 to R296) -/

/-- The results of the five stages in one cycle. -/
structure Stages where
  write : Option (RegisterId × Word)
  memory : MemoryResult
  execute : ExecuteResult
  decode : DecodeResult
  fetch : Option FetchDecode
  deriving DecidableEq, Repr

/-- R271, R296: the stage functions, all on the state at the start of the cycle; the first stop in this order is the
one reported (R337). -/
def evaluateStages (s : State) : Except Stop Stages :=
  match memoryStage s with
  | .error e => .error e
  | .ok m =>
    match decodeUnlessStalled s (executeStage s) m (writebackStage s) with
    | .error e => .error e
    | .ok d =>
      match fetchStage s with
      | .error e => .error e
      | .ok f =>
        .ok { write := writebackStage s, memory := m, execute := executeStage s, decode := d, fetch := f }

/-- R290: the status of a cycle without reset, from its stages. -/
def Stages.status (t : Stages) : PipelineStatus :=
  statusOf false t.memory.stall t.decode.interlock t.fetch.isSome

/-- R291, R292, R294: what Execute, Memory and Writeback commit in an `Ok` or `LoadInterlock` cycle. -/
def State.commitBackEnd (s : State) (t : Stages) : State :=
  { (({ s with dcBusy := false, ext := none, dcwrite := none } : State).writeBack t.write).applyStore t.memory.store with
    xm := t.execute.next
    mw := t.memory.next }

/-- R22, R291: the front end of an `Ok` cycle. -/
def State.commitFrontEnd (s : State) (t : Stages) : State :=
  { s with
    pc := t.decode.redirect.getD (s.pc + 4)
    fd := t.fetch
    dx := t.decode.next }

/-- R291: the commit by status. -/
def State.commitCycle (s : State) (t : Stages) : State :=
  match t.status with
  | .ok => { (s.commitFrontEnd t).commitBackEnd t with status := .ok }
  | .stall .loadInterlock => { (s.commitBackEnd t) with dx := none, status := .stall .loadInterlock }
  | .stall r => s.stalled r
  | .exceptionWB _ => s

/-- R296: a cycle without reset, before the fills: it stops, or gives the committed state. -/
def runCycle (s : State) : Except Stop State :=
  if s.wasReset then
    match evaluateStages s with
    | .error e => .error e
    | .ok t => .ok (s.commitCycle t)
  else .error (.fault .noReset)

/-- R41: the status as a function of the state at the start of a cycle without reset. -/
def cycleStatus (s : State) : Except Stop PipelineStatus :=
  match evaluateStages s with
  | .error e => .error e
  | .ok t => .ok t.status

/-- R296: one clock cycle: the inputs of the cycle are taken, the cycle runs or is a reset cycle (R272, R293), and the
fills of the cycle are applied at its edge. -/
def cycleStep (s : State) : Host.Outcome State Fault Refusal :=
  if s.nextInputs.reset then .next (s.popInputs.takeReset.applyFills s.nextInputs)
  else
    match runCycle s.popInputs with
    | .error e => e.outcome
    | .ok s' => .next (s'.applyFills s.nextInputs)

end Sys2Proof.Machine
end

