-- ==== Sys2Proof/Machine/InstructionStep.lean ====
section
/-! DEFINITION. One step of the instruction-level reading (R14, R259): the instruction at `pc` is fetched through the
ICache, decoded and executed whole. What this reading does on a fetch miss, a busy cache and a fill is entry 11. -/

namespace Sys2Proof.Machine

/-- The fills of the step's inputs, at its edge (R295). -/
def finish (inp : Inputs) : Host.Outcome State Fault Refusal → Host.Outcome State Fault Refusal
  | .next s => .next (s.applyFills inp)
  | .fault f => .fault f
  | .refused r => .refused r

/-- R121, R125, R259: the word at `pc` is decoded and its instruction executed. -/
def runWord (w : InsWord) (s : State) : Host.Outcome State Fault Refusal :=
  match decode w with
  | .error _ => .refused (.unadmittedEncoding w)
  | .ok i => exec i s

/-- R259, R287, R289: a step without reset: fetch, then the instruction; a fetch miss is a stall. -/
def runInstruction (s : State) : Host.Outcome State Fault Refusal :=
  if s.wasReset then
    match s.fetch with
    | .error e => e.outcome
    | .ok none => .next (s.stalled .instructionCacheBusy)
    | .ok (some w) => runWord w s
  else .fault .noReset

/-- R259, R293, R295: one step of the instruction-level reading. -/
def instructionStep (s : State) : Host.Outcome State Fault Refusal :=
  if s.nextInputs.reset then .next (s.popInputs.takeReset.applyFills s.nextInputs)
  else finish s.nextInputs (runInstruction s.popInputs)

end Sys2Proof.Machine
end

