-- ==== Sys2Proof/Machine/Step.lean ====
section
/-! DEFINITION. One step of the machine, in the reading the state is in (R13, R14, entry 1), and the placing of one
instruction for the host. -/

namespace Sys2Proof.Machine

/-- R13, R270: a step is a clock cycle; R14, R259: or, in the instruction-level reading, one instruction. -/
def step (s : State) : Host.Outcome State Fault Refusal :=
  match s.reading with
  | .cycle => cycleStep s
  | .instruction => instructionStep s

/-- The state with an instruction stored in the ICache line of `pc`, where the next fetch looks (R61, R287), and read
at instruction level, so that the next step runs exactly that instruction: entry 8. -/
def State.withFetchWord (s : State) (nbits w : Nat) : State :=
  s.atInstructionLevel.placeWord (tableWord nbits w)

end Sys2Proof.Machine
end

