-- ==== Sys2Proof/Safety.lean ====
section
/-! DEFINITION. What a safe run is, in the terms the statements use: what an instruction leaves alone (frames), what
completes and what waits, the invariant every step keeps, and the program state of a pipeline (its instructions in
flight completed). -/

namespace Sys2Proof.Safety

open Sys2Proof.Machine

/-! ### Fields of an encoding -/

/-- R112, R114: `r` is the `Integer` register whose number stands in the five bits of the word from bit `lo` on. -/
def NamedAt (w : InsWord) (lo : Nat) (r : RegisterId) : Prop :=
  ∃ n : Fin 32, r = .integer n ∧ n.val = w.toNat / 2 ^ lo % 2 ^ 5

/-- R112, R116, R130: the operands of an instruction are the fields of its word: `rs` at bit 21, `rt` at 16, `rd` at
11, `sa` at 6, `imm` and `target` at 0. -/
def ReadFrom (w : InsWord) : Instr → Prop
  | .lui rt imm => NamedAt w 16 rt ∧ imm.toNat = w.toNat % 2 ^ 16
  | .ori rt rs imm | .daddiu rt rs imm | .slti rt rs imm | .sltiu rt rs imm
  | .lb rt rs imm | .lbu rt rs imm | .lh rt rs imm | .lhu rt rs imm | .lw rt rs imm | .lwu rt rs imm | .ld rt rs imm
  | .sb rt rs imm | .sh rt rs imm | .sw rt rs imm | .sd rt rs imm | .beq rs rt imm | .bne rs rt imm =>
    NamedAt w 21 rs ∧ NamedAt w 16 rt ∧ imm.toNat = w.toNat % 2 ^ 16
  | .or rd rs rt | .slt rd rs rt | .sltu rd rs rt | .daddu rd rs rt | .dsubu rd rs rt
  | .sllv rd rt rs | .srlv rd rt rs | .srav rd rt rs | .dsllv rd rt rs | .dsrlv rd rt rs | .dsrav rd rt rs =>
    NamedAt w 21 rs ∧ NamedAt w 16 rt ∧ NamedAt w 11 rd
  | .sll rd rt sa | .srl rd rt sa | .sra rd rt sa | .dsll rd rt sa | .dsrl rd rt sa | .dsra rd rt sa
  | .dsll32 rd rt sa | .dsrl32 rd rt sa | .dsra32 rd rt sa =>
    NamedAt w 16 rt ∧ NamedAt w 11 rd ∧ sa.toNat = w.toNat / 2 ^ 6 % 2 ^ 5
  | .j target => target.toNat = w.toNat % 2 ^ 26
  | .jr rs => NamedAt w 21 rs

/-! ### Frames -/

/-- What no instruction touches: the parameters, the reading, the inputs to come, and the four stage registers. -/
structure ControlKept (s t : State) : Prop where
  cfg : t.cfg = s.cfg
  reading : t.reading = s.reading
  wasReset : t.wasReset = s.wasReset
  inputs : t.inputs = s.inputs
  fd : t.fd = s.fd
  dx : t.dx = s.dx
  xm : t.xm = s.xm
  mw : t.mw = s.mw

/-- No register changes, of all 64. -/
def RegistersKept (s t : State) : Prop := ∀ q, t.reg q = s.reg q

/-- R205, R29: register `r` takes the value `v`, unless it is `Integer(0)` and hardwired to zero, in which case the
value is discarded; no other register changes. -/
def WritesOnly (s t : State) (r : RegisterId) (v : Word) : Prop :=
  ∀ q, t.reg q = if q = r ∧ ¬(s.cfg.r0HardwiredZero = true ∧ r = .integer 0) then v else s.reg q

/-- Every byte of data memory and of instruction memory reads as before, and no line changes, its tag, its valid and
its dirty bit included. -/
structure MemoryKept (s t : State) : Prop where
  data : ∀ a, t.dataByte a = s.dataByte a
  code : ∀ a, t.codeByte a = s.codeByte a
  dlines : t.dc = s.dc
  ilines : t.ic = s.ic

/-- No output but the status: nothing on the bus, no DCache write, the DCache not busy. -/
structure NothingEmitted (t : State) : Prop where
  ext : t.ext = none
  dcwrite : t.dcwrite = none
  dcBusy : t.dcBusy = false

/-- R259: `(cur, next) <- (next, next + 4)`, with status `Ok`. -/
structure Advanced (s t : State) : Prop where
  pc : t.pc = s.npc
  npc : t.npc = s.npc + 4
  afterTaken : t.afterTaken = false
  status : t.status = .ok

/-! ### Completing, transferring, waiting -/

/-- The instruction completes: its whole effect is that `r` takes the value `v`, and the next instruction follows. -/
def CompletesWith (i : Instr) (s : State) (r : RegisterId) (v : Word) : Prop :=
  ∃ t, exec i s = .next t ∧ WritesOnly s t r v ∧ MemoryKept s t ∧ ControlKept s t ∧ NothingEmitted t ∧ Advanced s t

/-- R250, R259: the transfer completes: it changes nothing but the sequence. The instruction that follows is the delay
slot, and the one after that is at `target` if there is one. -/
def TransfersTo (i : Instr) (s : State) (target : Option Word) : Prop :=
  ∃ t, exec i s = .next t ∧ RegistersKept s t ∧ MemoryKept s t ∧ ControlKept s t ∧ NothingEmitted t ∧
    t.pc = s.npc ∧ t.npc = target.getD (s.npc + 4) ∧ t.afterTaken = target.isSome ∧ t.status = .ok

/-- R88: the access waits: it has no effect and the same instruction is up next. -/
def Waits (i : Instr) (s : State) (why : StallReason) : Prop :=
  ∃ t, exec i s = .next t ∧ RegistersKept s t ∧ MemoryKept s t ∧ ControlKept s t ∧ NothingEmitted t ∧
    t.pc = s.pc ∧ t.npc = s.npc ∧ t.afterTaken = s.afterTaken ∧ t.status = .stall why

/-- R64: the bytes a load would see from address `a` on are `bs`. -/
def DataBytes (s : State) (a : Word) (bs : List Byte) : Prop :=
  ∀ (k : Nat) (h : k < bs.length), s.dataByte (a + BitVec.ofNat 64 k) = some bs[k]

/-- R66: the bytes a fetch would see from address `a` on are `bs`. -/
def CodeBytes (s : State) (a : Word) (bs : List Byte) : Prop :=
  ∀ (k : Nat) (h : k < bs.length), s.codeByte (a + BitVec.ofNat 64 k) = some bs[k]

/-- `a` is one of the `n` byte addresses from `base` on. -/
def Covers (base : Word) (n : Nat) (a : Word) : Prop := ∃ k, k < n ∧ a = base + BitVec.ofNat 64 k

/-- R82, R84: the low `n` bytes of `v` at their place in the doubleword of address `a`, zeros elsewhere. -/
def lanes (a : Word) (n : Nat) (v : Word) : Word :=
  (v.setWidth (8 * n)).setWidth 64 <<< (8 * (8 - n - a.toNat % 8))

/-- R81, R82, R83: the cached store of the low `n` bytes of `v` at `a` completes: the bytes at `a` to `a + n - 1` are
those of `v`, most significant first; every other byte, every register and every instruction byte is as before; the
line is dirty and keeps its tag and its valid bit; the write is shown on `dcwrite`; the DCache is busy. -/
def StoresBytes (i : Instr) (s : State) (a : Word) (n : Nat) (v : Word) : Prop :=
  ∃ t, exec i s = .next t ∧ RegistersKept s t ∧ ControlKept s t ∧ Advanced s t ∧
    (∀ k, k < n → t.dataByte (a + BitVec.ofNat 64 k) = some (v.extractLsb' (8 * (n - 1 - k)) 8)) ∧
    (∀ b, ¬Covers a n b → t.dataByte b = s.dataByte b) ∧
    (∀ b, t.codeByte b = s.codeByte b) ∧ t.ic = s.ic ∧
    (∀ k, t.dline k =
      if k = Config.dindex s.cfg a then { s.dline k with data := (t.dline k).data, dirty := true } else s.dline k) ∧
    t.dcBusy = true ∧ t.ext = none ∧
    t.dcwrite = some { rowAddress := rowOf a, mask := { size := n - 1, align := a.toNat % 8 }, data := lanes a n v }

/-- R84: the external store completes: one request goes out and nothing else changes. -/
def StoresExternally (i : Instr) (s : State) (a : Word) (n : Nat) (v : Word) : Prop :=
  ∃ t, exec i s = .next t ∧ RegistersKept s t ∧ MemoryKept s t ∧ ControlKept s t ∧ Advanced s t ∧
    t.dcBusy = false ∧ t.dcwrite = none ∧
    t.ext = some { address := a, data := lanes a n v, size := n - 1, write := true }

/-- R76: the fill of the coming cycle, if any, is not for DCache line `k`. -/
def NotFilled (s : State) (k : Nat) : Prop := ∀ f, s.nextInputs.dfill = some f → f.index ≠ k

/-- R81, R82, R83, R295: the step from `s` to `t` commits the cached store of the low `n` bytes of `v` at `a`. The
store could be serviced; in the lines the fill of the same edge leaves alone, the bytes from `a` on are those of `v`,
most significant first, every other byte is as before, and only the line of `a` changes: its data, and it is dirty; the
DCache is busy; the write is shown with its row, its mask and its data in place. -/
structure StoreCommitted (s t : State) (a : Word) (n : Nat) (v : Word) : Prop where
  serviced : a.toNat % n = 0 ∧ s.dcBusy = false ∧ s.dataByte a ≠ none
  bytes : NotFilled s (Config.dindex s.cfg a) →
    ∀ k, k < n → t.dataByte (a + BitVec.ofNat 64 k) = some (v.extractLsb' (8 * (n - 1 - k)) 8)
  otherBytes : ∀ b, ¬Covers a n b → NotFilled s (Config.dindex s.cfg b) → t.dataByte b = s.dataByte b
  lines : ∀ k, NotFilled s k → t.dline k =
    if k = Config.dindex s.cfg a then { s.dline k with data := (t.dline k).data, dirty := true } else s.dline k
  busy : t.dcBusy = true
  record : t.dcwrite =
    some { rowAddress := rowOf a, mask := { size := n - 1, align := a.toNat % 8 }, data := lanes a n v }

/-! ### The invariant -/

/-- R35, R67: a listed line of a cache of `2 ^ bits` lines. -/
def lineInRange (bits index tag : Nat) (valid : Bool) : Prop :=
  index < 2 ^ bits ∧ tag < 2 ^ (64 - (3 + bits)) ∧ valid = true

/-- R47: a fill names a line of the cache and a tag of the tag's width. -/
def fillInRange (bits : Nat) (f : Option Fill) : Prop :=
  ∀ g, f = some g → g.index < 2 ^ bits ∧ g.tag < 2 ^ (64 - (3 + bits))

/-- R31, R114, R274: the instructions in flight name `Integer` registers only, and the write in Writeback is the one of
its instruction. -/
structure InFlightOk (s : State) : Prop where
  dx : ∀ r, s.dx = some r → r.ins.wellFormed = true
  xm : ∀ r, s.xm = some r → r.ins.wellFormed = true
  mw : ∀ r, s.mw = some r → r.ins.wellFormed = true ∧ (r.dest = none ∨ r.dest = Config.dest s.cfg r.ins)

/-- What every state of a run satisfies, and every step keeps. -/
structure Inv (s : State) : Prop where
  /-- 92_eei_decisions.md section 1: the parameters are legal. -/
  legal : Config.legal s.cfg = true
  /-- The cache arrays are in canonical form. -/
  icForm : Memory.wf ILine.absent s.ic
  dcForm : Memory.wf DLine.absent s.dc
  /-- R35, R97: what is listed is a valid line, with an index and a tag of the cache. -/
  icLines : ∀ e ∈ s.ic, lineInRange s.cfg.iidxBits e.1 e.2.tag e.2.valid
  dcLines : ∀ e ∈ s.dc, lineInRange s.cfg.didxBits e.1 e.2.tag e.2.valid
  /-- R47: the fills to come are in range. -/
  ifills : ∀ inp ∈ s.inputs, fillInRange s.cfg.iidxBits inp.ifill
  dfills : ∀ inp ∈ s.inputs, fillInRange s.cfg.didxBits inp.dfill
  /-- R31, R274: the instructions in flight. -/
  inFlight : InFlightOk s
  /-- R24: an instruction that was fetched has a word-aligned address. -/
  fdAligned : ∀ r, s.fd = some r → r.pc.toNat % 4 = 0
  dxAligned : ∀ r, s.dx = some r → r.pc.toNat % 4 = 0
  xmAligned : ∀ r, s.xm = some r → r.pc.toNat % 4 = 0
  mwAligned : ∀ r, s.mw = some r → r.pc.toNat % 4 = 0
  /-- R36, R282: only a transfer is marked as having redirected. -/
  takenIsTransfer : ∀ r, s.dx = some r → r.taken = true → isTransfer r.ins = true
  /-- R34, R45: the DCache is busy exactly after a cycle that wrote it. -/
  busyIsWrite : s.dcBusy = s.dcwrite.isSome

/-! ### The program state of a pipeline (R14, R90) -/

/-- An instruction in Memory completed at once: its access serviced, its register written. None where it would wait or
stop. -/
def completeMemory (s : State) (r : ExecuteMemory) : Option State :=
  match memoryStage { s with xm := some r, dcBusy := false } with
  | .ok m =>
    if m.stall = none then
      some ((s.applyStore m.store).writeBack (writebackStage { s with mw := m.next }))
    else none
  | .error _ => none

/-- The stage register an instruction in Execute becomes (R280). -/
def executed (r : DecodeExecute) : ExecuteMemory :=
  { pc := r.pc, ins := r.ins, result := executeResult r, sdata := r.sdata }

/-- The state with its instructions in Writeback, Memory and Execute completed, oldest first: the registers and the
data memory a program would see at the instruction in Decode. -/
def flush (s : State) : Option State :=
  let s1 := s.writeBack (writebackStage s)
  match (match s.xm with | none => some s1 | some r => completeMemory s1 r) with
  | none => none
  | some s2 =>
    match s.dx with
    | none => some s2
    | some r => completeMemory s2 (executed r)

/-- R10, R14, R259: the instruction-level state at which the instruction at `pc`, next in Decode of `s`, executes:
everything older completed (`g`), the address after it the one Fetch works on, its place in a delay slot as `dx` says. -/
def programPoint (s g : State) (pc : Word) : State :=
  { g with pc := pc, npc := s.pc, afterTaken := s.inDelaySlot, dcBusy := false }

/-- A cycle without reset and without a fill. -/
def Undisturbed (s : State) : Prop :=
  s.nextInputs.reset = false ∧ s.nextInputs.ifill = none ∧ s.nextInputs.dfill = none

/-- R88, R291: what a full-freeze stall makes of a state: the inputs are taken, the busy window is over, the outputs are
empty, the fills of the cycle are applied, and nothing else changes. -/
def frozen (s : State) (why : StallReason) : State :=
  State.applyFills
    { s with inputs := s.inputs.tail, dcBusy := false, status := .stall why, ext := none, dcwrite := none }
    s.nextInputs

/-- The same cycle without its fills. -/
def withoutFills (s : State) : State :=
  { s with inputs := { s.nextInputs with ifill := none, dfill := none } :: s.inputs.tail }

/-- How many of the first `k` steps of a run ended with status `Ok`. -/
def okCycles (run : Nat → State) (k : Nat) : Nat :=
  (List.range k).countP fun j => (run (j + 1)).status == .ok

end Sys2Proof.Safety
end

