-- ==== Sys2Proof/Certificates/Slice0/Obligations.lean ====
section
/-! DEFINITION. The statements for the provers. "R<n>" is a rule of spec/, "D<n>" a decision of spec/92_eei_decisions.md
and "entry <n>" a row of notes/assumptions/. A statement whose rule carries a decision or general-knowledge mark of the
spec says so; its basis is 'derived'. -/

open Sys2Proof Sys2Proof.Machine Sys2Proof.Safety

/-! ### Encoding -/

/-- Words of the spec's own examples, each with the instruction the spec gives for it: R180, R181, R185, R190, R193,
R222, R231, R252, R254, R255, R126. The numbers are MIPS III's (D2, entry 13). -/
def Obligations.SpecWordsDecode : Prop :=
  decode 0x3C01DEAD = .ok (.lui (.integer 1) 0xDEAD) ∧
  decode 0x3421BEEF = .ok (.ori (.integer 1) (.integer 1) 0xBEEF) ∧
  decode 0x00221825 = .ok (.or (.integer 3) (.integer 1) (.integer 2)) ∧
  decode 0x00021900 = .ok (.sll (.integer 3) (.integer 2) 4) ∧
  decode 0x00221804 = .ok (.sllv (.integer 3) (.integer 2) (.integer 1)) ∧
  decode 0x80430041 = .ok (.lb (.integer 3) (.integer 2) 0x41) ∧
  decode 0xAC410044 = .ok (.sw (.integer 1) (.integer 2) 0x44) ∧
  decode 0x1000FFFB = .ok (.beq (.integer 0) (.integer 0) 0xFFFB) ∧
  decode 0x0BF00040 = .ok (.j 0x3F00040) ∧
  decode 0x01E00008 = .ok (.jr (.integer 15)) ∧
  decode 0x00000000 = .ok (.sll (.integer 0) (.integer 0) 0)

/-- R66, R112, R118, R121 (D2, entry 13): decoding what the encoder writes gives the instruction back, for every well-formed
instruction with every operand, as a word and as bytes at the head of any byte list. -/
def Obligations.DecodeEncodeRoundTrip : Prop :=
  ∀ i : Instr, i.wellFormed = true →
    decode (encode i) = .ok i ∧ ∀ rest : List Byte, decodeBytes (encodeBytes i ++ rest) = .ok (i, rest)

/-- R112, R119, R121 (D2, D3): a word that decodes is the encoding of its instruction, which names `Integer` registers
only: no bit of an admitted word is ignored. -/
def Obligations.EncodeDecodeRoundTrip : Prop :=
  ∀ (w : InsWord) (i : Instr), decode w = .ok i → encode i = w ∧ i.wellFormed = true

/-- R112, R116, R118, R120, R121, R125, R130 (D1, D2, D3, entry 13): a word decodes exactly when a row of the opcode
table admits it, no two rows admit the same word, and the instruction is the one of that row, by its mnemonic, with its
operands at their fields of the word. -/
def Obligations.DecodeAgreesWithOpcodeTable : Prop :=
  ∀ w : InsWord,
    ((∃ i, decode w = .ok i) ↔ ∃ r ∈ opcodeTable, r.admits w = true) ∧
    (opcodeTable.Pairwise fun r q => ¬(r.admits w = true ∧ q.admits w = true)) ∧
    ∀ i, decode w = .ok i →
      ReadFrom w i ∧ ∃ r ∈ opcodeTable, r.admits w = true ∧ r.mnemonic = Instr.mnemonic i

/-- R125, R281, R335 (D4, entry 11): a word that matches no row is refused: in Decode, in a cycle that no older stall freezes, and in the
instruction-level reading when it is the word at `pc`. That a model refuses is the spec's own choice. -/
def Obligations.UnadmittedWordsAreRefused : Prop :=
  ∀ (s : State) (w : InsWord), s.wasReset = true → s.nextInputs.reset = false →
    (∀ r ∈ opcodeTable, r.admits w = false) →
    (∀ f m, s.reading = .cycle → s.fd = some f → f.word = w → memoryStage s = .ok m → m.stall = none →
      step s = .refused (.unadmittedEncoding w)) ∧
    (s.reading = .instruction → s.pc.toNat % 4 = 0 → CodeBytes s s.pc (wordBytes w) →
      step s = .refused (.unadmittedEncoding w))

/-! ### The ALU -/

/-- R143, R144, R145, R146, with the corner cases the rules name. -/
def Obligations.ArithmeticAndCompareModes : Prop :=
  (∀ a b : Word,
    (alu .add64 a b).toNat = (a.toNat + b.toNat) % 2 ^ 64 ∧
    ((alu .sub64 a b).toNat : Int) = ((a.toNat : Int) - b.toNat) % 2 ^ 64 ∧
    alu .setLess a b = (if a.toInt < b.toInt then 1 else 0) ∧
    alu .setLessUnsigned a b = (if a.toNat < b.toNat then 1 else 0)) ∧
  (∀ a : Word, alu .sub64 a a = 0 ∧ alu .setLess a a = 0 ∧ alu .setLessUnsigned a a = 0) ∧
  alu .add64 0xFFFFFFFFFFFFFFFF 1 = 0 ∧ alu .add64 0x7FFFFFFFFFFFFFFF 1 = 0x8000000000000000 ∧
  alu .add64 0x40 0x4 = 0x44 ∧
  alu .sub64 0 1 = 0xFFFFFFFFFFFFFFFF ∧ alu .sub64 0x8000000000000000 1 = 0x7FFFFFFFFFFFFFFF ∧
  alu .sub64 10 3 = 7 ∧
  alu .setLess 0x8000000000000000 0x7FFFFFFFFFFFFFFF = 1 ∧ alu .setLess 0xFFFFFFFFFFFFFFFF 0 = 1 ∧
  alu .setLess 3 5 = 1 ∧
  alu .setLessUnsigned 0xFFFFFFFFFFFFFFFF 0 = 0 ∧ alu .setLessUnsigned 0 0xFFFFFFFFFFFFFFFF = 1 ∧
  alu .setLessUnsigned 3 5 = 1

/-- R147, R148 (D24): the amount of a shift is `b[4:0]` in the 32-bit modes, for the low 32 bits of the result and of
the operand, and `b[5:0]` in the 64-bit modes; the other bits of `b` are ignored, so a shift by the width is a shift by
0. That a 32-bit mode shifts the low word is decision D24. -/
def Obligations.ShiftAmountsAreTruncated : Prop :=
  (∀ a b : Word,
    alu .shiftLeft64 a b = a <<< (b.toNat % 64) ∧
    alu .shiftRight64 a b = a >>> (b.toNat % 64) ∧
    alu .shiftRightArith64 a b = a.sshiftRight (b.toNat % 64) ∧
    (alu .shiftLeft32 a b).setWidth 32 = a.setWidth 32 <<< (b.toNat % 32) ∧
    (alu .shiftRight32 a b).setWidth 32 = a.setWidth 32 >>> (b.toNat % 32) ∧
    (alu .shiftRightArith32 a b).setWidth 32 = (a.setWidth 32).sshiftRight (b.toNat % 32)) ∧
  (∀ mode ∈ [AluMode.shiftLeft32, .shiftRight32, .shiftRightArith32], ∀ a b : Word,
    alu mode a b = alu mode a ((b.extractLsb' 0 5).setWidth 64) ∧ alu mode a 32 = alu mode a 0) ∧
  (∀ mode ∈ [AluMode.shiftLeft64, .shiftRight64, .shiftRightArith64], ∀ a b : Word,
    alu mode a b = alu mode a ((b.extractLsb' 0 6).setWidth 64) ∧ alu mode a 64 = alu mode a 0)

/-- R152: the three 64-bit shifts as arithmetic on the operand's value, `s = b[5:0]`; the arithmetic one rounds down. -/
def Obligations.DoublewordShiftModes : Prop :=
  ∀ a b : Word,
    (alu .shiftLeft64 a b).toNat = a.toNat * 2 ^ (b.toNat % 64) % 2 ^ 64 ∧
    (alu .shiftRight64 a b).toNat = a.toNat / 2 ^ (b.toNat % 64) ∧
    (alu .shiftRightArith64 a b).toInt = a.toInt / 2 ^ (b.toNat % 64) ∧
    (b.toNat % 64 = 0 →
      alu .shiftLeft64 a b = a ∧ alu .shiftRight64 a b = a ∧ alu .shiftRightArith64 a b = a)

/-- R149, R150, R151: the three 32-bit shifts as arithmetic on the low word, `s = b[4:0]`. That the 32-bit result is
sign-extended is the spec's decision D24. `Int.bmod` is the two's-complement value of the low 32 bits. -/
def Obligations.WordShiftModes : Prop :=
  ∀ a b : Word,
    (alu .shiftLeft32 a b).toInt = Int.bmod (a.toNat % 2 ^ 32 * 2 ^ (b.toNat % 32)) (2 ^ 32) ∧
    (alu .shiftRight32 a b).toInt = Int.bmod (a.toNat % 2 ^ 32 / 2 ^ (b.toNat % 32)) (2 ^ 32) ∧
    (alu .shiftRightArith32 a b).toInt = Int.bmod a.toNat (2 ^ 32) / 2 ^ (b.toNat % 32)

/-- R155, with R153 and R154 (D24, D25): subtraction by complement, the borrow, results of compares, sign-extended
32-bit results, Or and PassB. -/
def Obligations.AluLaws : Prop :=
  ∀ a b : Word,
    alu .sub64 a b = alu .add64 a (alu .add64 (~~~b) 1) ∧
    (alu .setLessUnsigned a b = 1 ↔ ((alu .sub64 a b).toNat : Int) ≠ (a.toNat : Int) - b.toNat) ∧
    (∀ mode ∈ [AluMode.setLess, .setLessUnsigned], alu mode a b = 0 ∨ alu mode a b = 1) ∧
    (∀ mode ∈ [AluMode.shiftLeft32, .shiftRight32, .shiftRightArith32],
      alu mode a b = ((alu mode a b).setWidth 32).signExtend 64) ∧
    (∀ k, k < 64 → (alu .or a b).getLsbD k = (a.getLsbD k || b.getLsbD k)) ∧
    alu .passB a b = b

/-! ### The mask unit -/

/-- R163: bit `i` of `byteMask` is set exactly when byte `i`, from the most significant, is occupied; the formula, and
the examples of the rule. -/
def Obligations.ByteMaskMarksOccupiedBytes : Prop :=
  (∀ m : MemMask, m.legal = true →
    (byteMask m).toNat = (2 ^ (m.size + 1) - 1) * 2 ^ m.align ∧
    ∀ i, i < 8 → (byteMask m).getLsbD i = decide (m.align ≤ i ∧ i ≤ m.align + m.size)) ∧
  byteMask { size := 7, align := 0 } = 0xFF ∧ byteMask { size := 0, align := 7 } = 0x80 ∧
  byteMask { size := 0, align := 0 } = 0x01 ∧ byteMask { size := 3, align := 4 } = 0xF0

/-- R165, R166: the field as a number and byte by byte, and its sign-extension. -/
def Obligations.ExtractReadsTheField : Prop :=
  ∀ m : MemMask, m.legal = true → ∀ a : Word,
    (extract m a).toNat = a.toNat / 2 ^ ((7 - (m.align + m.size)) * 8) % 2 ^ ((m.size + 1) * 8) ∧
    (∀ j, j ≤ m.size → byteOf (extract m a) (7 - m.size + j) = byteOf a (m.align + j)) ∧
    (∀ j, j < 7 - m.size → byteOf (extract m a) j = 0) ∧
    (extractSigned m a).toInt = Int.bmod (extract m a).toNat (2 ^ ((m.size + 1) * 8)) ∧
    (m.size = 7 → extract m a = a ∧ extractSigned m a = a)

/-- R167, R168, R169: `clear`, `insert`, `insertAligned` and `byteMux`, byte by byte. -/
def Obligations.InsertReplacesTheField : Prop :=
  ∀ m : MemMask, m.legal = true → ∀ a b : Word,
    (∀ i, i < 8 → byteOf (clear m a) i = if m.align ≤ i ∧ i ≤ m.align + m.size then 0 else byteOf a i) ∧
    (∀ i, i < 8 → byteOf (Machine.insert m a b) i =
      if m.align ≤ i ∧ i ≤ m.align + m.size then byteOf b (i + 7 - (m.align + m.size)) else byteOf a i) ∧
    (∀ i, i < 8 → byteOf (insertAligned m a b) i =
      if m.align ≤ i ∧ i ≤ m.align + m.size then byteOf b i else byteOf a i) ∧
    Machine.insert m a (extract m a) = a ∧
    insertAligned m a b = byteMux m a b ∧
    Machine.insert m a b = insertAligned m a (b <<< ((7 - (m.align + m.size)) * 8))

/-- R171: the identities of the mask unit that the other statements do not give. -/
def Obligations.MaskIdentities : Prop :=
  ∀ m : MemMask, m.legal = true → ∀ a b : Word,
    (extract m (Machine.insert m a b)).toNat = b.toNat % 2 ^ ((m.size + 1) * 8) ∧
    clear m (Machine.insert m a b) = clear m a ∧
    clear m a ||| (a &&& bitMask m) = a ∧
    popcount8 (byteMask m) = m.size + 1 ∧
    ∀ i k, i < 8 → k < 8 → (bitMask m).getLsbD (63 - 8 * i - k) = (byteMask m).getLsbD i

/-- R31, R170, R335 (entry 16): a mask outside its range and a RegisterId outside its range are each a fault of its own,
inside their range neither is, and no step raises either; nor does a step stop on an instruction for want of a meaning.
That a model faults there is the spec's reading (R335); that no step reaches these faults is DEDUCED. -/
def Obligations.ContractFaultsAreUnreachable : Prop :=
  (∀ size align, MemMask.make size align =
    if size + align ≤ 7 then .ok { size := size, align := align } else .error (.fault .memMaskContract)) ∧
  (∀ (isFloat : Bool) (n : Fin 32),
    RegisterId.port isFloat n.val = .ok (if isFloat then .float n else .integer n)) ∧
  (∀ isFloat n, 32 ≤ n → RegisterId.port isFloat n = .error (.fault .registerIdOutOfRange)) ∧
  ∀ s : State, step s ≠ .fault .memMaskContract ∧ step s ≠ .fault .registerIdOutOfRange ∧
    ∀ name, step s ≠ .refused (.notModelled name)

/-! ### Registers -/

/-- R26, R27, R283, R294 (D13, D14): the write port changes the register written and no other. In the cycle of a write,
`Ok` or `LoadInterlock` (D13), a read port gives the value before the write (the register file does no forwarding: a
source register that no stage offers a value for obtains that value), and it has the new value from the next cycle on. -/
def Obligations.ReadPortSeesValueBeforeWrite : Prop :=
  ∀ (s t : State) (r : RegisterId) (v : Word),
    (∀ q, (s.setReg r v).reg q = if q = r then v else s.reg q) ∧
    (s.reading = .cycle → s.nextInputs.reset = false → writebackStage s = some (r, v) → step s = .next t →
      t.status = .ok ∨ t.status = .stall .loadInterlock →
      (∀ x m, offers x.fwd r = none → offers m.fwd r = none → Config.isZeroRegister s.cfg r = false →
        operandValue s x m none r = s.reg r) ∧
      t.reg r = v ∧ ∀ q, q ≠ r → t.reg q = s.reg q)

/-- R7, R28, R29 (D17): `Integer(0)` under the parameter. Hardwired: it reads 0 past the register file and the bypass
network, a write to it is discarded, it is no destination and interlocks nothing. Not hardwired: an ordinary register.
`Float(0)` is never special. -/
def Obligations.HardwiredZeroRegister : Prop :=
  ∀ s : State,
    (s.cfg.r0HardwiredZero = true →
      s.x (.integer 0) = 0 ∧ (∀ v, RegistersKept s (s.writeX (.integer 0) v)) ∧
      (∀ i, destField i = some (.integer 0) → Config.dest s.cfg i = none) ∧
      ∀ x m w, operandValue s x m w (.integer 0) = 0 ∧ interlocks s.cfg x (.integer 0) = false) ∧
    (s.cfg.r0HardwiredZero = false → ∀ r, s.x r = s.reg r ∧ ∀ i, Config.dest s.cfg i = destField i) ∧
    ∀ v, s.x (.float 0) = s.reg (.float 0) ∧ (s.writeX (.float 0) v).x (.float 0) = v

/-- R31, R114, R118 (D1, D36, entry 16): decoded instructions read and write `Integer` registers only, so no step changes
a `Float` register, from any state whose instructions in flight are such (which every step keeps). An index of 32 or more
is a fault (entry 16, DEDUCED). -/
def Obligations.FloatRegistersNeverChange : Prop :=
  (∀ w i, decode w = .ok i →
    (∀ r ∈ sources i, r.isInteger = true) ∧ ∀ r, destField i = some r → r.isInteger = true) ∧
  (∀ s t, InFlightOk s → step s = .next t → InFlightOk t ∧ ∀ n, t.reg (.float n) = s.reg (.float n)) ∧
  ∀ isFloat n, 32 ≤ n → RegisterId.port isFloat n = .error (.fault .registerIdOutOfRange)

/-! ### Addresses and caches -/

/-- R67, R68 (D6, D7, D8): tag, index and offset make up the address, so two lines never have the same index and tag. -/
def Obligations.AddressSplitIsInjective : Prop :=
  ∀ (bits : Nat) (a b : Word), 3 + bits ≤ 64 →
    a.toNat = tagOf bits a * 2 ^ (3 + bits) + indexOf bits a * 8 + offsetOf a ∧
    tagOf bits a < 2 ^ (64 - (3 + bits)) ∧ indexOf bits a < 2 ^ bits ∧
    (rowOf a = rowOf b ↔ indexOf bits a = indexOf bits b ∧ tagOf bits a = tagOf bits b)

/-- R66, R71, R72 (D27): a fetch delivers a word exactly when its four bytes are present at `pc`, most significant byte
at the lowest address; it is the mask unit's `extract` of the line. -/
def Obligations.FetchedWordIsBigEndian : Prop :=
  ∀ (s : State) (w : InsWord), s.pc.toNat % 4 = 0 →
    (s.fetch = .ok (some w) ↔ CodeBytes s s.pc (wordBytes w)) ∧
    (s.fetch = .ok (some w) →
      w.setWidth 64 = extract { size := 3, align := s.pc.toNat % 8 } (s.iline (Config.iindex s.cfg s.pc)).data)

/-- R74, R75, R77 (D10, D20, entries 9 and 11): the line a fill installs, in every step that goes on (a reset cycle and a
stall included), whatever the line held; the other ICache lines are kept, and no output shows the line that was
replaced. That a step of the instruction-level reading applies its fills is entry 11 (DEDUCED), and that a fill outside
the range of R47 is applied as it stands is entry 9 (DESIGN CHOICE). -/
def Obligations.FillInstallsLine : Prop :=
  ∀ s t : State, Memory.wf ILine.absent s.ic → Memory.wf DLine.absent s.dc → step s = .next t →
    (∀ f, s.nextInputs.ifill = some f →
      t.iline f.index = { tag := f.tag, valid := true, data := f.data } ∧
      ∀ k, k ≠ f.index → t.iline k = s.iline k) ∧
    (∀ f, s.nextInputs.dfill = some f →
      t.dline f.index = { tag := f.tag, valid := true, dirty := false, data := f.data } ∧
      ∃ u, step (withoutFills s) = .next u ∧ t.ext = u.ext ∧ t.dcwrite = u.dcwrite ∧
        ∀ k, k ≠ f.index → t.dline k = u.dline k)

/-- R76, R77, R295 (D10, entry 11): a fill is not seen by the step it comes with and is applied after everything the step does,
after its store too; the busy flag is still the store's.
The rules speak of cycles; that a step of the instruction-level reading does the same is entry 11 (DEDUCED). -/
def Obligations.FillsActAtTheEdge : Prop :=
  ∀ s t : State, step s = .next t ↔
    ∃ u, step (withoutFills s) = .next u ∧
      t = { u with ic := fillICache u.ic s.nextInputs.ifill, dc := fillDCache u.dc s.nextInputs.dfill }

/-- R7, R96, R270 (entries 1, 6 and 11): no step changes the parameters or what a step is; each takes one record of inputs; and the ICache
changes by the fill of the step only, never by a store.
That the inputs stand in a list (entry 6) and that a field says what a step is (entry 1) are the model's own choices. -/
def Obligations.StepsLeaveCodeAndParameters : Prop :=
  ∀ s t : State, step s = .next t →
    t.ic = fillICache s.ic s.nextInputs.ifill ∧ t.cfg = s.cfg ∧ t.reading = s.reading ∧ t.inputs = s.inputs.tail

/-- R97: a line once valid stays valid, only a fill at its index changes its tag, its valid bit or (ICache) its data,
and only a fill makes a dirty line clean: whatever instruction the step runs. -/
def Obligations.ValidLinesStayValid : Prop :=
  ∀ s t : State, Memory.wf ILine.absent s.ic → Memory.wf DLine.absent s.dc → step s = .next t → ∀ k,
    ((s.iline k).valid = true → (t.iline k).valid = true) ∧
    ((s.dline k).valid = true → (t.dline k).valid = true) ∧
    ((∀ f, s.nextInputs.ifill = some f → f.index ≠ k) → t.iline k = s.iline k) ∧
    ((∀ f, s.nextInputs.dfill = some f → f.index ≠ k) →
      (t.dline k).tag = (s.dline k).tag ∧ (t.dline k).valid = (s.dline k).valid ∧
      ((s.dline k).dirty = true → (t.dline k).dirty = true))

/-! ### The instructions: results, frames, completion -/

/-- R115, R180 to R184, R205, R259 (D1, D2, D25, D37, entry 11): the immediate ALU forms complete from every state, write their one result
and change nothing else. -/
def Obligations.ImmediateResults : Prop :=
  ∀ (s : State) (rt rs : RegisterId) (imm : BitVec 16),
    CompletesWith (.lui rt imm) s rt ((imm ++ (0 : BitVec 16)).signExtend 64) ∧
    CompletesWith (.ori rt rs imm) s rt (s.x rs ||| imm.setWidth 64) ∧
    CompletesWith (.daddiu rt rs imm) s rt (s.x rs + imm.signExtend 64) ∧
    CompletesWith (.slti rt rs imm) s rt (if (s.x rs).toInt < imm.toInt then 1 else 0) ∧
    CompletesWith (.sltiu rt rs imm) s rt (if (s.x rs).toNat < (imm.signExtend 64).toNat then 1 else 0)

/-- R185 to R189, R205, R206, R259 (D1, D2, D25, entry 11): the three-register forms, a destination that is also a source included. -/
def Obligations.ThreeRegisterResults : Prop :=
  ∀ (s : State) (rd rs rt : RegisterId),
    CompletesWith (.or rd rs rt) s rd (s.x rs ||| s.x rt) ∧
    CompletesWith (.slt rd rs rt) s rd (if (s.x rs).toInt < (s.x rt).toInt then 1 else 0) ∧
    CompletesWith (.sltu rd rs rt) s rd (if (s.x rs).toNat < (s.x rt).toNat then 1 else 0) ∧
    CompletesWith (.daddu rd rs rt) s rd (s.x rs + s.x rt) ∧
    CompletesWith (.dsubu rd rs rt) s rd (s.x rs - s.x rt)

/-- R190 to R195, R205, R259 (D1, D2, D24, entry 11): the 32-bit shifts of the low word of x[rt], sign-extended. -/
def Obligations.WordShiftResults : Prop :=
  ∀ (s : State) (rd rt rs : RegisterId) (sa : BitVec 5),
    CompletesWith (.sll rd rt sa) s rd (((s.x rt).setWidth 32 <<< sa.toNat).signExtend 64) ∧
    CompletesWith (.srl rd rt sa) s rd (((s.x rt).setWidth 32 >>> sa.toNat).signExtend 64) ∧
    CompletesWith (.sra rd rt sa) s rd ((((s.x rt).setWidth 32).sshiftRight sa.toNat).signExtend 64) ∧
    CompletesWith (.sllv rd rt rs) s rd (((s.x rt).setWidth 32 <<< ((s.x rs).toNat % 32)).signExtend 64) ∧
    CompletesWith (.srlv rd rt rs) s rd (((s.x rt).setWidth 32 >>> ((s.x rs).toNat % 32)).signExtend 64) ∧
    CompletesWith (.srav rd rt rs) s rd
      ((((s.x rt).setWidth 32).sshiftRight ((s.x rs).toNat % 32)).signExtend 64)

/-- R196 to R204, R205, R259 (D1, D2, entry 11): the 64-bit shifts; the `32` forms shift by 32 more. -/
def Obligations.DoublewordShiftResults : Prop :=
  ∀ (s : State) (rd rt rs : RegisterId) (sa : BitVec 5),
    CompletesWith (.dsll rd rt sa) s rd (s.x rt <<< sa.toNat) ∧
    CompletesWith (.dsrl rd rt sa) s rd (s.x rt >>> sa.toNat) ∧
    CompletesWith (.dsra rd rt sa) s rd ((s.x rt).sshiftRight sa.toNat) ∧
    CompletesWith (.dsll32 rd rt sa) s rd (s.x rt <<< (sa.toNat + 32)) ∧
    CompletesWith (.dsrl32 rd rt sa) s rd (s.x rt >>> (sa.toNat + 32)) ∧
    CompletesWith (.dsra32 rd rt sa) s rd ((s.x rt).sshiftRight (sa.toNat + 32)) ∧
    CompletesWith (.dsllv rd rt rs) s rd (s.x rt <<< ((s.x rs).toNat % 64)) ∧
    CompletesWith (.dsrlv rd rt rs) s rd (s.x rt >>> ((s.x rs).toNat % 64)) ∧
    CompletesWith (.dsrav rd rt rs) s rd ((s.x rt).sshiftRight ((s.x rs).toNat % 64))

/-- R64, R80, R220, R221, R222 to R228, R259 (D1, D2, D16, D37, entry 11): a load completes when its address is aligned and cached, the DCache is
not busy and the bytes are present; it writes those bytes, the one at the lowest address most significant, sign- or
zero-extended, and changes nothing else. -/
def Obligations.LoadResults : Prop :=
  ∀ (s : State) (rt rs : RegisterId) (imm : BitVec 16) (a : Word),
    a = effectiveAddress (s.x rs) imm → Config.inCachedWindow s.cfg a = true → s.dcBusy = false →
    a = s.x rs + imm.signExtend 64 ∧
    (∀ b0, DataBytes s a [b0] →
      CompletesWith (.lb rt rs imm) s rt (b0.signExtend 64) ∧
      CompletesWith (.lbu rt rs imm) s rt (b0.setWidth 64)) ∧
    (∀ b0 b1, a.toNat % 2 = 0 → DataBytes s a [b0, b1] →
      CompletesWith (.lh rt rs imm) s rt ((b0 ++ b1).signExtend 64) ∧
      CompletesWith (.lhu rt rs imm) s rt ((b0 ++ b1).setWidth 64)) ∧
    (∀ b0 b1 b2 b3, a.toNat % 4 = 0 → DataBytes s a [b0, b1, b2, b3] →
      CompletesWith (.lw rt rs imm) s rt ((b0 ++ b1 ++ b2 ++ b3).signExtend 64) ∧
      CompletesWith (.lwu rt rs imm) s rt ((b0 ++ b1 ++ b2 ++ b3).setWidth 64)) ∧
    (∀ b0 b1 b2 b3 b4 b5 b6 b7, a.toNat % 8 = 0 → DataBytes s a [b0, b1, b2, b3, b4, b5, b6, b7] →
      CompletesWith (.ld rt rs imm) s rt (b0 ++ b1 ++ b2 ++ b3 ++ b4 ++ b5 ++ b6 ++ b7))

/-- R78, R80, R83, R85, R88, R220 (D16, D21, D22, entry 11): a load stops when misaligned, before any lookup, and when its address lies
outside the cached window; it waits while the DCache is busy, busy being tested before hit or miss, and while its line
is absent. -/
def Obligations.LoadsWaitOrStop : Prop :=
  ∀ (s : State) (rt rs : RegisterId) (imm : BitVec 16) (a : Word), a = effectiveAddress (s.x rs) imm →
    ∀ p ∈ [(Instr.lb rt rs imm, 1), (.lbu rt rs imm, 1), (.lh rt rs imm, 2), (.lhu rt rs imm, 2),
        (.lw rt rs imm, 4), (.lwu rt rs imm, 4), (.ld rt rs imm, 8)],
      (a.toNat % p.2 ≠ 0 → exec p.1 s = .fault .misalignedAccess) ∧
      (a.toNat % p.2 = 0 → Config.inCachedWindow s.cfg a = false →
        exec p.1 s = .refused .loadOutsideCachedWindow) ∧
      (a.toNat % p.2 = 0 → Config.inCachedWindow s.cfg a = true → s.dcBusy = true →
        Waits p.1 s .dataCacheBusy) ∧
      (a.toNat % p.2 = 0 → Config.inCachedWindow s.cfg a = true → s.dcBusy = false → s.dataByte a = none →
        Waits p.1 s .dataCacheMiss)

/-- R81, R82, R83, R220, R229 to R232, R259 (D1, D2, D16, D31, D37, entry 11): a store to a cached address completes when the address is aligned, the
DCache not busy and the line present. -/
def Obligations.CachedStoreResults : Prop :=
  ∀ (s : State) (rt rs : RegisterId) (imm : BitVec 16) (a : Word),
    a = effectiveAddress (s.x rs) imm → Memory.wf DLine.absent s.dc →
    Config.inCachedWindow s.cfg a = true → s.dcBusy = false → s.dataByte a ≠ none →
    StoresBytes (.sb rt rs imm) s a 1 (s.x rt) ∧
    (a.toNat % 2 = 0 → StoresBytes (.sh rt rs imm) s a 2 (s.x rt)) ∧
    (a.toNat % 4 = 0 → StoresBytes (.sw rt rs imm) s a 4 (s.x rt)) ∧
    (a.toNat % 8 = 0 → StoresBytes (.sd rt rs imm) s a 8 (s.x rt))

/-- R84, R220, R229 to R232, R259 (D1, D2, D9, D16, D23, D37, entry 11): a store outside the cached window completes at once, busy or not, with one request
on the bus and no change of the caches. -/
def Obligations.ExternalStoreResults : Prop :=
  ∀ (s : State) (rt rs : RegisterId) (imm : BitVec 16) (a : Word),
    a = effectiveAddress (s.x rs) imm → Config.inCachedWindow s.cfg a = false →
    StoresExternally (.sb rt rs imm) s a 1 (s.x rt) ∧
    (a.toNat % 2 = 0 → StoresExternally (.sh rt rs imm) s a 2 (s.x rt)) ∧
    (a.toNat % 4 = 0 → StoresExternally (.sw rt rs imm) s a 4 (s.x rt)) ∧
    (a.toNat % 8 = 0 → StoresExternally (.sd rt rs imm) s a 8 (s.x rt))

/-- R78, R81, R83, R88, R220 (D16, D21, D34, entry 11): a store faults when misaligned, wherever it goes; a cached one waits while the
DCache is busy and while its line is absent. -/
def Obligations.StoresWaitOrStop : Prop :=
  ∀ (s : State) (rt rs : RegisterId) (imm : BitVec 16) (a : Word), a = effectiveAddress (s.x rs) imm →
    ∀ p ∈ [(Instr.sb rt rs imm, 1), (.sh rt rs imm, 2), (.sw rt rs imm, 4), (.sd rt rs imm, 8)],
      (a.toNat % p.2 ≠ 0 → exec p.1 s = .fault .misalignedAccess) ∧
      (a.toNat % p.2 = 0 → Config.inCachedWindow s.cfg a = true → s.dcBusy = true →
        Waits p.1 s .dataCacheBusy) ∧
      (a.toNat % p.2 = 0 → Config.inCachedWindow s.cfg a = true → s.dcBusy = false → s.dataByte a = none →
        Waits p.1 s .dataCacheMiss)

/-- R251, R252, R253, R257, R259 (D1, D2, D11, D26, entry 11): the branches, outside a taken transfer's delay slot. -/
def Obligations.BranchResults : Prop :=
  ∀ (s : State) (rs rt : RegisterId) (imm : BitVec 16), s.afterTaken = false →
    TransfersTo (.beq rs rt imm) s
      (if s.x rs = s.x rt then some (s.pc + 4 + imm.signExtend 64 * 4) else none) ∧
    TransfersTo (.bne rs rt imm) s
      (if s.x rs = s.x rt then none else some (s.pc + 4 + imm.signExtend 64 * 4))

/-- R251, R254, R255, R257, R259 (D1, D2, D11, D26, entry 11): the jumps, outside a taken transfer's delay slot. -/
def Obligations.JumpResults : Prop :=
  ∀ (s : State) (target : BitVec 26) (rs : RegisterId), s.afterTaken = false →
    TransfersTo (.j target) s (some ((s.pc + 4) &&& 0xFFFFFFFFF0000000 ||| target.setWidth 64 * 4)) ∧
    TransfersTo (.jr rs) s (some (s.x rs))

/-- R126, R130, R131, R205, R252, R254, R259 (D1, D2, D11, D26, D40, entry 11): the pseudo-instructions and the label formulas. `nop` rewrites `Integer(0)`, so it is one
only where that register is hardwired or already holds a sign-extended 32-bit value. -/
def Obligations.AssemblerForms : Prop :=
  encode nop = 0 ∧
  (∀ s : State, CompletesWith nop s (.integer 0) (((s.x (.integer 0)).setWidth 32).signExtend 64) ∧
    (s.cfg.r0HardwiredZero = true ∨ s.reg (.integer 0) = ((s.reg (.integer 0)).setWidth 32).signExtend 64 →
      ∃ t, exec nop s = .next t ∧ RegistersKept s t)) ∧
  (∀ (s : State) (rd rs : RegisterId), CompletesWith (moveRegister rd rs) s rd (s.x rs)) ∧
  (∀ (s : State) (rt : RegisterId) (v : BitVec 32),
    ∃ t u, exec (li32 rt v).1 s = .next t ∧ exec (li32 rt v).2 t = .next u ∧
      WritesOnly s u rt (v.signExtend 64) ∧ MemoryKept s u ∧ ControlKept s u) ∧
  (∀ (s : State) (label : Word), s.afterTaken = false → label.toNat % 4 = 0 → s.pc.toNat % 4 = 0 →
    (-2 ^ 17 ≤ (label - (s.pc + 4)).toInt ∧ (label - (s.pc + 4)).toInt < 2 ^ 17 →
      TransfersTo (branchAlways (branchField s.pc label)) s (some label)) ∧
    (jumpReaches s.pc label = true → TransfersTo (.j (jumpField label)) s (some label)))

/-- R257, R282 (D29): a control transfer in the delay slot of a taken transfer is refused, taken or not, in both
readings. -/
def Obligations.TransfersRefusedInDelaySlot : Prop :=
  (∀ (i : Instr) (s : State), isTransfer i = true → s.afterTaken = true →
    exec i s = .refused .controlTransferInDelaySlot) ∧
  ∀ (s : State) (f : FetchDecode) (r : DecodeExecute) (i : Instr) (m : MemoryResult),
    s.reading = .cycle → s.wasReset = true → s.nextInputs.reset = false → s.fd = some f →
    decode f.word = .ok i → isTransfer i = true → s.dx = some r → r.taken = true → memoryStage s = .ok m → m.stall = none →
    step s = .refused .controlTransferInDelaySlot

/-- R24, R256, R259 (D11, D28): if the instruction at `pc` and the one after it are word-aligned, only JR can make the next one misaligned. -/
def Obligations.OnlyJumpRegisterMisaligns : Prop :=
  ∀ (i : Instr) (s t : State), s.pc.toNat % 4 = 0 → s.npc.toNat % 4 = 0 → (∀ rs, i ≠ .jr rs) →
    exec i s = .next t → t.pc.toNat % 4 = 0 ∧ t.npc.toNat % 4 = 0

/-! ### The instruction-level step -/

/-- R14, R77, R121, R259 (entries 1 and 11): when the four bytes at `pc` decode, a step of the instruction-level reading is
`exec` of that instruction on the state with the inputs of the step taken, followed by the fills of the step; when they
are absent it is a stall. -/
def Obligations.InstructionStepRunsDecoded : Prop :=
  ∀ s : State, s.reading = .instruction → s.wasReset = true → s.nextInputs.reset = false →
    s.pc.toNat % 4 = 0 →
    (∀ b0 b1 b2 b3 i, CodeBytes s s.pc [b0, b1, b2, b3] → decodeBytes [b0, b1, b2, b3] = .ok (i, []) →
      step s = finish s.nextInputs (exec i { s with inputs := s.inputs.tail })) ∧
    (s.codeByte s.pc = none → step s = .next (frozen s .instructionCacheBusy))

/-- R14, R66, R366 (entries 1, 8 and 11): the instruction `withFetchWord` places is the one the next step runs, and placing it changes neither the
registers nor the data memory nor `pc`. -/
def Obligations.PlacedInstructionRuns : Prop :=
  ∀ (s : State) (i : Instr), i.wellFormed = true → s.wasReset = true → s.nextInputs.reset = false →
    s.pc.toNat % 4 = 0 → Memory.wf ILine.absent s.ic →
    ∀ p, p = s.withFetchWord 32 (encode i).toNat →
      step p = finish s.nextInputs (exec i { p with inputs := p.inputs.tail }) ∧
      p.rf = s.rf ∧ p.dc = s.dc ∧ p.pc = s.pc

/-! ### Reset -/

/-- R48, R361, R21 (D5, D18, D19, D20; entries 2, 3, 4): what reset leaves. The register values are the model's choice
and not stated here. -/
def Obligations.ResetStateValues : Prop :=
  State.reset.pc = State.reset.cfg.resetVector ∧
  State.reset.cfg.resetVector = (State.reset.cfg.resetVector.setWidth 32).signExtend 64 ∧
  State.reset.fd = none ∧ State.reset.dx = none ∧ State.reset.xm = none ∧ State.reset.mw = none ∧
  State.reset.dcBusy = false ∧ State.reset.status = .exceptionWB .reset ∧
  State.reset.ext = none ∧ State.reset.dcwrite = none ∧
  (∀ k, (State.reset.iline k).valid = false) ∧ ∀ k, (State.reset.dline k).valid = false

/-- R259, R293, R338, R339, R361, R363, R364 (D11, D20, entry 11): taking the one exception, from every state, in
either reading (entry 11): nothing is saved, nothing stops, the control state starts over, registers stay, caches change
by the fills only; a second reset cycle changes nothing more. That `(cur, next)` starts as the reset vector and the reset
vector plus 4 is R259 (D11); that the first instruction after reset stands in no delay slot (`afterTaken` is false) is
entry 11 (DEDUCED). -/
def Obligations.ResetCycle : Prop :=
  ∀ s : State, s.nextInputs.reset = true →
    ∃ t, step s = .next t ∧ t.pc = s.cfg.resetVector ∧ t.npc = s.cfg.resetVector + 4 ∧ t.afterTaken = false ∧
      t.fd = none ∧ t.dx = none ∧ t.xm = none ∧ t.mw = none ∧ t.dcBusy = false ∧
      t.status = .exceptionWB .reset ∧ t.ext = none ∧ t.dcwrite = none ∧ t.wasReset = true ∧
      RegistersKept s t ∧
      t.ic = fillICache s.ic s.nextInputs.ifill ∧ t.dc = fillDCache s.dc s.nextInputs.dfill ∧
      (t.nextInputs.reset = true → t.nextInputs.ifill = none → t.nextInputs.dfill = none →
        step t = .next { t with inputs := t.inputs.tail })

/-- R49, R296 (D20): a step that is no reset cycle, from a state that was never reset, faults. -/
def Obligations.StepNeedsReset : Prop :=
  ∀ s : State, s.wasReset = false →
    (s.nextInputs.reset = false → step s = .fault .noReset) ∧
    (s.nextInputs.reset = true → ∃ t, step s = .next t ∧ t.wasReset = true)

/-- R24, R287, R296, R337 (D12, D28, entry 11): no step other than a reset cycle goes on from a misaligned `pc`. The
reason is the misaligned `pc` unless an older stage stops first: in a cycle, whenever Memory and Decode stop nothing,
whether or not they wait (a delay slot in Decode, an access that stalls); at instruction level, always. -/
def Obligations.MisalignedPcStops : Prop :=
  ∀ s : State, s.pc.toNat % 4 ≠ 0 → s.nextInputs.reset = false →
    (∀ t, step s ≠ .next t) ∧
    (s.wasReset = true → s.reading = .instruction → step s = .fault .misalignedPc) ∧
    (s.wasReset = true → s.reading = .cycle → ∀ m d, memoryStage s = .ok m →
      decodeUnlessStalled s (executeStage s) m (writebackStage s) = .ok d → step s = .fault .misalignedPc)

/-! ### The clock cycle -/

/-- R290, R333, R337 (D12): the status of a cycle, oldest stage first. -/
def Obligations.StatusPriority : Prop :=
  ∀ s t : State, s.reading = .cycle → step s = .next t →
    (s.nextInputs.reset = true → t.status = .exceptionWB .reset) ∧
    (s.nextInputs.reset = false → ∃ m, memoryStage s = .ok m ∧
      (∀ r, m.stall = some r → (r = .dataCacheBusy ∨ r = .dataCacheMiss) ∧ t.status = .stall r) ∧
      (m.stall = none → ∃ d, decodeStage s (executeStage s) m (writebackStage s) = .ok d ∧
        (d.interlock = true → t.status = .stall .loadInterlock) ∧
        (d.interlock = false → s.ihit s.pc = false → t.status = .stall .instructionCacheBusy) ∧
        (d.interlock = false → s.ihit s.pc = true → t.status = .ok)))

/-- R88, R291, R292, R295 (D10, D13): in the three full-freeze stalls nothing moves and nothing is written: the state
after the cycle is the state before it but for the inputs taken, the busy flag, the outputs and the fills. -/
def Obligations.FrozenCycleKeepsState : Prop :=
  ∀ (s t : State) (why : StallReason), s.reading = .cycle → step s = .next t → t.status = .stall why →
    why ≠ .loadInterlock → t = frozen s why

/-- R286, R291 (D13, D15): a `LoadInterlock` cycle happens only when a load in Execute writes a register the instruction
in Decode reads; `pc` and Decode hold, an empty slot enters Execute, the load goes on to Memory. And it does happen then,
if Memory asks for no stall and the instruction in Decode is no transfer that is refused. -/
def Obligations.LoadInterlockCycle : Prop :=
  (∀ s t : State, s.reading = .cycle → step s = .next t → t.status = .stall .loadInterlock →
    (∃ r f i d, s.dx = some r ∧ isLoad r.ins = true ∧ Config.dest s.cfg r.ins = some d ∧
      s.fd = some f ∧ decode f.word = .ok i ∧ d ∈ sources i) ∧
    t.pc = s.pc ∧ t.fd = s.fd ∧ t.dx = none ∧ t.xm = s.dx.map executed ∧
    t.mw.map (fun r => (r.pc, r.ins)) = s.xm.map fun r => (r.pc, r.ins)) ∧
  ∀ (s : State) (r : DecodeExecute) (f : FetchDecode) (i : Instr) (d : RegisterId) (m : MemoryResult),
    s.reading = .cycle → s.wasReset = true → s.nextInputs.reset = false → s.pc.toNat % 4 = 0 →
    s.dx = some r → isLoad r.ins = true → Config.dest s.cfg r.ins = some d →
    s.fd = some f → decode f.word = .ok i → d ∈ sources i → ¬(isTransfer i = true ∧ r.taken = true) →
    memoryStage s = .ok m → m.stall = none →
    ∃ t, step s = .next t ∧ t.status = .stall .loadInterlock

/-- R36, R66, R299 (D27, D39): in an `Ok` cycle exactly one instruction is fetched, the one at `pc`, and every stage register advances by one
place, the instruction and its address staying together. -/
def Obligations.OkCycleAdvances : Prop :=
  ∀ s t : State, s.reading = .cycle → step s = .next t → t.status = .ok →
    (∃ w, CodeBytes s s.pc (wordBytes w) ∧ t.fd = some { pc := s.pc, word := w }) ∧
    t.dx.map (fun r => (r.pc, Except.ok r.ins)) = s.fd.map (fun f => (f.pc, decode f.word)) ∧
    t.xm.map (fun r => (r.pc, r.ins)) = s.dx.map (fun r => (r.pc, r.ins)) ∧
    t.mw.map (fun r => (r.pc, r.ins)) = s.xm.map (fun r => (r.pc, r.ins))

/-- R26, R273, R294 (D13): a cycle writes at most the one register of the instruction in Writeback, in an `Ok` or
`LoadInterlock` cycle, and none in any other. -/
def Obligations.OneRegisterWrittenPerCycle : Prop :=
  ∀ s t : State, s.reading = .cycle → step s = .next t →
    (t.status = .ok ∨ t.status = .stall .loadInterlock →
      ∀ q, t.reg q = ((s.mw.bind fun r => if r.dest = some q then some r.value else none).getD (s.reg q))) ∧
    (¬(t.status = .ok ∨ t.status = .stall .loadInterlock) → RegistersKept s t)

/-- R81, R82, R83, R84, R87, R92, R274, R292, R295 (D10, D13, D16, D23, D31): what a store in Memory does in a cycle.
A request goes out exactly in the cycle in which an external store completes there. A cached store whose cycle is `Ok`
or `LoadInterlock` commits: its bytes, the dirty bit, the busy flag and the `dcwrite` record, and no other byte or line.
Each leaves Memory with that cycle. No `dcwrite` is shown in any other cycle, and the DCache then changes by the fill
only. -/
def Obligations.StoresLeaveMemoryOnce : Prop :=
  ∀ s t : State, s.reading = .cycle → step s = .next t →
    (∀ e, t.ext = some e → (t.status = .ok ∨ t.status = .stall .loadInterlock) ∧
      ∃ r n, s.xm = some r ∧ accessOf r.ins = some (.store n) ∧ Config.inCachedWindow s.cfg r.result = false ∧
        e = { address := r.result, data := lanes r.result n r.sdata, size := n - 1, write := true } ∧
        t.mw.map (fun q => (q.pc, q.ins)) = some (r.pc, r.ins) ∧ t.xm = s.dx.map executed) ∧
    (∀ r n, s.xm = some r → accessOf r.ins = some (.store n) → Config.inCachedWindow s.cfg r.result = false →
      t.status = .ok ∨ t.status = .stall .loadInterlock → t.ext.isSome = true) ∧
    (∀ r n, Memory.wf DLine.absent s.dc → s.xm = some r → accessOf r.ins = some (.store n) →
      Config.inCachedWindow s.cfg r.result = true → t.status = .ok ∨ t.status = .stall .loadInterlock →
      StoreCommitted s t r.result n r.sdata ∧ t.ext = none ∧
      t.mw.map (fun q => (q.pc, q.ins)) = some (r.pc, r.ins) ∧ t.xm = s.dx.map executed) ∧
    (∀ w, t.dcwrite = some w → (t.status = .ok ∨ t.status = .stall .loadInterlock) ∧
      ∃ r n, s.xm = some r ∧ accessOf r.ins = some (.store n) ∧ Config.inCachedWindow s.cfg r.result = true) ∧
    (t.dcwrite = none → t.dc = fillDCache s.dc s.nextInputs.dfill)

/-- R23: a run of cycles that begins after a reset cycle and in which no transfer is taken: `pc` is the reset vector plus
4 for each `Ok` cycle. -/
def Obligations.SequentialPcFromReset : Prop :=
  ∀ (start : State) (run : Nat → State) (n : Nat),
    start.reading = .cycle → start.nextInputs.reset = true → step start = .next (run 0) →
    (∀ k, k < n → step (run k) = .next (run (k + 1)) ∧ (run k).nextInputs.reset = false ∧
      ∀ r, (run (k + 1)).dx = some r → r.taken = false) →
    (run n).pc = start.cfg.resetVector + BitVec.ofNat 64 (4 * okCycles run n)

/-- R71, R72, R76, R289, R291, R295, R380 (D10, D13): a fetch that misses, with nothing older waiting, stalls the
cycle: no stage moves, no register is written (R291, D13) and `pc` stays where it is; the line is there for the next
cycle if the fill of this one supplies it, and is not if none comes. -/
def Obligations.MissedFetchStallsUntilFilled : Prop :=
  ∀ (s : State) (m : MemoryResult) (d : DecodeResult),
    s.reading = .cycle → s.wasReset = true → s.nextInputs.reset = false → s.pc.toNat % 4 = 0 →
    s.codeByte s.pc = none → memoryStage s = .ok m → m.stall = none →
    decodeStage s (executeStage s) m (writebackStage s) = .ok d → d.interlock = false →
    ∃ t, step s = .next t ∧ t = frozen s .instructionCacheBusy ∧ t.pc = s.pc ∧
      (s.nextInputs.ifill = none → t.codeByte t.pc = none) ∧
      ∀ f, Memory.wf ILine.absent s.ic → s.nextInputs.ifill = some f → f.index = Config.iindex s.cfg s.pc →
        f.tag = Config.itag s.cfg s.pc → t.codeByte t.pc = some (byteOf f.data (offsetOf s.pc))

/-- R73, R76, R80, R81, R291, R295, R380 (D10, D13, D34): a cached access whose line is absent stalls the cycle and
stays in Memory: no stage moves and no register is written (R291, D13); the line is there for the next cycle if the
fill of this one supplies it, and is not if none comes. -/
def Obligations.DataMissStallsUntilFilled : Prop :=
  ∀ (s : State) (r : ExecuteMemory) (n : Nat),
    s.reading = .cycle → s.wasReset = true → s.nextInputs.reset = false → s.pc.toNat % 4 = 0 → s.xm = some r →
    (accessOf r.ins = some (.store n) ∨ ∃ signed, accessOf r.ins = some (.load n signed)) →
    r.result.toNat % n = 0 → Config.inCachedWindow s.cfg r.result = true → s.dcBusy = false →
    s.dataByte r.result = none →
    ∃ t, step s = .next t ∧ t = frozen s .dataCacheMiss ∧ t.xm = some r ∧
      (s.nextInputs.dfill = none → t.dataByte r.result = none) ∧
      ∀ f, Memory.wf DLine.absent s.dc → s.nextInputs.dfill = some f → f.index = Config.dindex s.cfg r.result →
        f.tag = Config.dtag s.cfg r.result → t.dataByte r.result = some (byteOf f.data (offsetOf r.result))

/-- R34, R83, R291, R295 (D10, D13, D16, entry 11): the DCache is busy exactly after a step that wrote it, in either
reading (entry 11); a cached access in a busy cycle stalls for that cycle, whatever its line: no stage moves and no
register is written (R291, D13), and the cycle after is not busy. -/
def Obligations.BusyLastsOneCycle : Prop :=
  (∀ s t : State, step s = .next t → t.dcBusy = t.dcwrite.isSome) ∧
  ∀ (s : State) (r : ExecuteMemory) (n : Nat),
    s.reading = .cycle → s.wasReset = true → s.nextInputs.reset = false → s.pc.toNat % 4 = 0 → s.xm = some r →
    (accessOf r.ins = some (.store n) ∨ ∃ signed, accessOf r.ins = some (.load n signed)) →
    r.result.toNat % n = 0 → Config.inCachedWindow s.cfg r.result = true → s.dcBusy = true →
    ∃ t, step s = .next t ∧ t = frozen s .dataCacheBusy ∧ t.dcBusy = false ∧ t.xm = some r

/-- R233, R286 (D15): a `LoadInterlock` cycle is never followed by another. -/
def Obligations.LoadInterlockLastsOneCycle : Prop :=
  ∀ s t u : State, s.reading = .cycle → step s = .next t → t.status = .stall .loadInterlock → step t = .next u →
    u.status ≠ .stall .loadInterlock

/-! ### The pipeline and the program -/

/-- R283, R14, R206 (D14): the value the bypass network gives a source register that does not interlock is the value the
register has once every older instruction in flight has completed. -/
def Obligations.BypassGivesProgramOrderValue : Prop :=
  ∀ (s g : State) (m : MemoryResult) (r : RegisterId), memoryStage s = .ok m → m.stall = none →
    flush s = some g → interlocks s.cfg (executeStage s) r = false →
    operandValue s (executeStage s) m (writebackStage s) r = g.x r

/-- R13, R14, R250, R259, R281, R283, R291 (D11, D13, D14, D16, entry 11): the pipeline runs the program. In an undisturbed `Ok` cycle with an instruction
in Decode, where the older instructions can complete (giving `g`) and that instruction completes at the program's state
(giving `t`): completing everything in flight after the cycle gives the registers and the data memory of `t`, and the
machine goes on at `t`'s addresses. -/
def Obligations.PipelineFollowsInstructionLevel : Prop :=
  ∀ (s s' g t : State) (f : FetchDecode) (i : Instr),
    s.reading = .cycle → Undisturbed s → step s = .next s' → s'.status = .ok →
    s.fd = some f → decode f.word = .ok i → flush s = some g →
    exec i (programPoint s g f.pc) = .next t → t.status = .ok →
    ∃ g', flush s' = some g' ∧ (∀ q, g'.reg q = t.reg q) ∧ g'.dc = t.dc ∧
      s'.fd.map (fun q => q.pc) = some t.pc ∧ s'.pc = t.npc ∧ s'.inDelaySlot = t.afterTaken

/-- R14, R88, R291 (D13): an undisturbed cycle that takes no instruction out of Decode (a stall of any kind, or an empty
Decode) leaves the program's registers and data memory as they are, whatever moves in the pipeline. -/
def Obligations.IdleCyclesKeepProgramState : Prop :=
  ∀ s s' g : State, s.reading = .cycle → Undisturbed s → step s = .next s' → flush s = some g →
    (s'.status ≠ .ok ∨ s.fd = none) →
    ∃ g', flush s' = some g' ∧ (∀ q, g'.reg q = g.reg q) ∧ g'.dc = g.dc

/-- R24, R31, R34, R35, R36, R47, R67, R97, R282 (D36, entries 9 and 11): every step keeps the invariant, in both readings:
canonical cache arrays of valid lines in range, fills in range (a premise about the inputs, entry 9), instructions in
flight with `Integer` registers and aligned addresses, the busy flag as the write record says. That a register read from
a word is `Integer` is D36. -/
def Obligations.StepKeepsInvariant : Prop :=
  ∀ s t : State, Inv s → step s = .next t → Inv t

/-- R7, R48, R361 (D5, D19, D20; entries 2 and 4): the reset state meets the invariant. -/
def Obligations.ResetMeetsInvariant : Prop := Inv State.reset
end

