-- ==== Sys2Proof/Laws/Memory.lean ====
section
/-! SUPPORT. The laws of sparse arrays: read after write, the frame of a write, and the canonical form. -/

namespace Sys2Proof.Machine

variable {α : Type}

@[simp] theorem Memory.get_nil (d : α) (k : Nat) : Memory.get d [] k = d := rfl

@[simp] theorem Memory.get_cons (d : α) (p : Nat × α) (m : Memory α) (k : Nat) :
    Memory.get d (p :: m) k = if k = p.1 then p.2 else Memory.get d m k := rfl

theorem Memory.wf_cons {d : α} {p : Nat × α} {m : Memory α} :
    Memory.wf d (p :: m) ↔ (∀ e ∈ m, p.1 < e.1) ∧ p.2 ≠ d ∧ Memory.wf d m := by
  simp only [Memory.wf, List.pairwise_cons, List.mem_cons, forall_eq_or_imp]
  tauto

/-- Below every listed index, an array reads as unlisted. -/
theorem Memory.get_of_lt {d : α} {m : Memory α} {k : Nat} (h : ∀ e ∈ m, k < e.1) :
    Memory.get d m k = d := by
  induction m with
  | nil => rfl
  | cons p m ih =>
    have hp : k ≠ p.1 := Nat.ne_of_lt (h p (by simp))
    simp only [Memory.get_cons, hp, if_false]
    exact ih fun e he => h e (by simp [he])

/-- In a canonical array, an index whose entry is not the unlisted one is listed. -/
theorem Memory.mem_of_get_ne {d : α} {m : Memory α} {k : Nat} (h : Memory.get d m k ≠ d) :
    (k, Memory.get d m k) ∈ m := by
  induction m with
  | nil => simp at h
  | cons p m ih =>
    obtain ⟨k', v'⟩ := p
    by_cases hk : k = k'
    · simp [hk]
    · simp only [Memory.get_cons, hk, if_false] at h ⊢
      exact List.mem_cons_of_mem _ (ih h)

variable [DecidableEq α]

/-- Read after write at the same index. -/
theorem Memory.get_set_same {d : α} {m : Memory α} (hm : Memory.wf d m) (k : Nat) (v : α) :
    Memory.get d (Memory.set d m k v) k = v := by
  induction m with
  | nil => by_cases h : v = d <;> simp [Memory.set, h]
  | cons p m ih =>
    obtain ⟨hlt, -, hw⟩ := Memory.wf_cons.mp hm
    obtain ⟨k', v'⟩ := p
    simp only [Memory.set]
    split
    · rename_i hk
      split
      · rename_i hv
        subst hv
        refine Memory.get_of_lt fun e he => ?_
        rcases List.mem_cons.mp he with rfl | he
        · exact hk
        · exact Nat.lt_trans hk (hlt e he)
      · simp
    · split
      · rename_i hk hk'
        subst hk'
        split
        · rename_i hv
          subst hv
          exact Memory.get_of_lt fun e he => hlt e he
        · simp
      · rename_i hk hk'
        simp [hk', ih hw]

/-- A write leaves every other index alone. -/
theorem Memory.get_set_ne {d : α} {m : Memory α} (hm : Memory.wf d m) {k j : Nat} (v : α) (hj : j ≠ k) :
    Memory.get d (Memory.set d m k v) j = Memory.get d m j := by
  induction m with
  | nil => by_cases h : v = d <;> simp [Memory.set, h, hj]
  | cons p m ih =>
    obtain ⟨hlt, -, hw⟩ := Memory.wf_cons.mp hm
    obtain ⟨k', v'⟩ := p
    simp only [Memory.set]
    split
    · split
      · rfl
      · simp [hj]
    · split
      · rename_i hk hk'
        subst hk'
        split <;> simp [hj]
      · simp only [Memory.get_cons, ih hw]

/-- Every index a write lists was listed before or is the one written. -/
theorem Memory.mem_set {d : α} {m : Memory α} {k : Nat} {v : α} {e : Nat × α} (he : e ∈ Memory.set d m k v) :
    e = (k, v) ∨ e ∈ m := by
  induction m with
  | nil =>
    by_cases h : v = d
    · simp [Memory.set, h] at he
    · simpa [Memory.set, h] using he
  | cons p m ih =>
    obtain ⟨k', v'⟩ := p
    simp only [Memory.set] at he
    split at he
    · split at he
      · exact .inr he
      · simpa using he
    · split at he
      · split at he
        · exact .inr (by simp [he])
        · rcases List.mem_cons.mp he with h | h
          · exact .inl h
          · exact .inr (by simp [h])
      · rcases List.mem_cons.mp he with h | h
        · exact .inr (by simp [h])
        · exact (ih h).imp id fun h => by simp [h]

/-- What a write lists is in no case what an unlisted index reads as. -/
theorem Memory.ne_of_mem_set {d : α} {m : Memory α} (hm : ∀ e ∈ m, e.2 ≠ d) {k : Nat} {v : α} {e : Nat × α}
    (he : e ∈ Memory.set d m k v) : e.2 ≠ d := by
  induction m with
  | nil =>
    by_cases h : v = d
    · simp [Memory.set, h] at he
    · have : e = (k, v) := by simpa [Memory.set, h] using he
      simpa [this] using h
  | cons p m ih =>
    obtain ⟨k', v'⟩ := p
    have hm' : ∀ e ∈ m, e.2 ≠ d := fun e he => hm e (by simp [he])
    simp only [Memory.set] at he
    split at he
    · split at he
      · exact hm e he
      · rename_i hv
        rcases List.mem_cons.mp he with h | h
        · simpa [h] using hv
        · exact hm e h
    · split at he
      · split at he
        · exact hm' e he
        · rename_i hv
          rcases List.mem_cons.mp he with h | h
          · simpa [h] using hv
          · exact hm' e h
      · rcases List.mem_cons.mp he with h | h
        · exact hm e (by simp [h])
        · exact ih hm' h

/-- A write keeps the canonical form. -/
theorem Memory.wf_set {d : α} {m : Memory α} (hm : Memory.wf d m) (k : Nat) (v : α) :
    Memory.wf d (Memory.set d m k v) := by
  induction m with
  | nil => by_cases h : v = d <;> simp [Memory.set, Memory.wf, h]
  | cons p m ih =>
    obtain ⟨hlt, hd, hw⟩ := Memory.wf_cons.mp hm
    obtain ⟨k', v'⟩ := p
    simp only [Memory.set]
    split
    · rename_i hk
      split
      · exact hm
      · rename_i hv
        refine Memory.wf_cons.mpr ⟨fun e he => ?_, hv, hm⟩
        rcases List.mem_cons.mp he with rfl | he
        · exact hk
        · exact Nat.lt_trans hk (hlt e he)
    · split
      · rename_i hk hk'
        subst hk'
        split
        · exact hw
        · rename_i hv
          exact Memory.wf_cons.mpr ⟨hlt, hv, hw⟩
      · rename_i hk hk'
        refine Memory.wf_cons.mpr ⟨fun e he => ?_, hd, ih hw⟩
        rcases Memory.mem_set he with rfl | he
        · exact Nat.lt_of_le_of_ne (Nat.le_of_not_lt hk) (Ne.symm hk')
        · exact hlt e he

end Sys2Proof.Machine
end

