-- ==== Sys2Proof/Laws/State.lean ====
section
/-! SUPPORT. One lemma per field per update of State, so that no proof unfolds a record update. -/

namespace Sys2Proof.Machine

variable (s : State)

/-! ### setReg -/

@[simp] theorem State.setReg_cfg (r : RegisterId) (v : Word) : (s.setReg r v).cfg = s.cfg := rfl
@[simp] theorem State.setReg_reading (r : RegisterId) (v : Word) : (s.setReg r v).reading = s.reading := rfl
@[simp] theorem State.setReg_wasReset (r : RegisterId) (v : Word) : (s.setReg r v).wasReset = s.wasReset := rfl
@[simp] theorem State.setReg_inputs (r : RegisterId) (v : Word) : (s.setReg r v).inputs = s.inputs := rfl
@[simp] theorem State.setReg_pc (r : RegisterId) (v : Word) : (s.setReg r v).pc = s.pc := rfl
@[simp] theorem State.setReg_npc (r : RegisterId) (v : Word) : (s.setReg r v).npc = s.npc := rfl
@[simp] theorem State.setReg_afterTaken (r : RegisterId) (v : Word) : (s.setReg r v).afterTaken = s.afterTaken := rfl
@[simp] theorem State.setReg_rf (r : RegisterId) (v : Word) : (s.setReg r v).rf = s.rf.set (RegisterId.place r) v := rfl
@[simp] theorem State.setReg_ic (r : RegisterId) (v : Word) : (s.setReg r v).ic = s.ic := rfl
@[simp] theorem State.setReg_dc (r : RegisterId) (v : Word) : (s.setReg r v).dc = s.dc := rfl
@[simp] theorem State.setReg_dcBusy (r : RegisterId) (v : Word) : (s.setReg r v).dcBusy = s.dcBusy := rfl
@[simp] theorem State.setReg_fd (r : RegisterId) (v : Word) : (s.setReg r v).fd = s.fd := rfl
@[simp] theorem State.setReg_dx (r : RegisterId) (v : Word) : (s.setReg r v).dx = s.dx := rfl
@[simp] theorem State.setReg_xm (r : RegisterId) (v : Word) : (s.setReg r v).xm = s.xm := rfl
@[simp] theorem State.setReg_mw (r : RegisterId) (v : Word) : (s.setReg r v).mw = s.mw := rfl
@[simp] theorem State.setReg_status (r : RegisterId) (v : Word) : (s.setReg r v).status = s.status := rfl
@[simp] theorem State.setReg_ext (r : RegisterId) (v : Word) : (s.setReg r v).ext = s.ext := rfl
@[simp] theorem State.setReg_dcwrite (r : RegisterId) (v : Word) : (s.setReg r v).dcwrite = s.dcwrite := rfl

/-! ### writeX -/

@[simp] theorem State.writeX_cfg (r : RegisterId) (v : Word) : (s.writeX r v).cfg = s.cfg := by
  unfold State.writeX; split <;> rfl
@[simp] theorem State.writeX_reading (r : RegisterId) (v : Word) : (s.writeX r v).reading = s.reading := by
  unfold State.writeX; split <;> rfl
@[simp] theorem State.writeX_wasReset (r : RegisterId) (v : Word) : (s.writeX r v).wasReset = s.wasReset := by
  unfold State.writeX; split <;> rfl
@[simp] theorem State.writeX_inputs (r : RegisterId) (v : Word) : (s.writeX r v).inputs = s.inputs := by
  unfold State.writeX; split <;> rfl
@[simp] theorem State.writeX_pc (r : RegisterId) (v : Word) : (s.writeX r v).pc = s.pc := by
  unfold State.writeX; split <;> rfl
@[simp] theorem State.writeX_npc (r : RegisterId) (v : Word) : (s.writeX r v).npc = s.npc := by
  unfold State.writeX; split <;> rfl
@[simp] theorem State.writeX_afterTaken (r : RegisterId) (v : Word) : (s.writeX r v).afterTaken = s.afterTaken := by
  unfold State.writeX; split <;> rfl
@[simp] theorem State.writeX_ic (r : RegisterId) (v : Word) : (s.writeX r v).ic = s.ic := by
  unfold State.writeX; split <;> rfl
@[simp] theorem State.writeX_dc (r : RegisterId) (v : Word) : (s.writeX r v).dc = s.dc := by
  unfold State.writeX; split <;> rfl
@[simp] theorem State.writeX_dcBusy (r : RegisterId) (v : Word) : (s.writeX r v).dcBusy = s.dcBusy := by
  unfold State.writeX; split <;> rfl
@[simp] theorem State.writeX_fd (r : RegisterId) (v : Word) : (s.writeX r v).fd = s.fd := by
  unfold State.writeX; split <;> rfl
@[simp] theorem State.writeX_dx (r : RegisterId) (v : Word) : (s.writeX r v).dx = s.dx := by
  unfold State.writeX; split <;> rfl
@[simp] theorem State.writeX_xm (r : RegisterId) (v : Word) : (s.writeX r v).xm = s.xm := by
  unfold State.writeX; split <;> rfl
@[simp] theorem State.writeX_mw (r : RegisterId) (v : Word) : (s.writeX r v).mw = s.mw := by
  unfold State.writeX; split <;> rfl
@[simp] theorem State.writeX_status (r : RegisterId) (v : Word) : (s.writeX r v).status = s.status := by
  unfold State.writeX; split <;> rfl
@[simp] theorem State.writeX_ext (r : RegisterId) (v : Word) : (s.writeX r v).ext = s.ext := by
  unfold State.writeX; split <;> rfl
@[simp] theorem State.writeX_dcwrite (r : RegisterId) (v : Word) : (s.writeX r v).dcwrite = s.dcwrite := by
  unfold State.writeX; split <;> rfl

/-! ### writeBack -/

@[simp] theorem State.writeBack_cfg (w : Option (RegisterId × Word)) : (s.writeBack w).cfg = s.cfg := by
  unfold State.writeBack; split <;> rfl
@[simp] theorem State.writeBack_reading (w : Option (RegisterId × Word)) : (s.writeBack w).reading = s.reading := by
  unfold State.writeBack; split <;> rfl
@[simp] theorem State.writeBack_wasReset (w : Option (RegisterId × Word)) : (s.writeBack w).wasReset = s.wasReset := by
  unfold State.writeBack; split <;> rfl
@[simp] theorem State.writeBack_inputs (w : Option (RegisterId × Word)) : (s.writeBack w).inputs = s.inputs := by
  unfold State.writeBack; split <;> rfl
@[simp] theorem State.writeBack_pc (w : Option (RegisterId × Word)) : (s.writeBack w).pc = s.pc := by
  unfold State.writeBack; split <;> rfl
@[simp] theorem State.writeBack_npc (w : Option (RegisterId × Word)) : (s.writeBack w).npc = s.npc := by
  unfold State.writeBack; split <;> rfl
@[simp] theorem State.writeBack_afterTaken (w : Option (RegisterId × Word)) : (s.writeBack w).afterTaken = s.afterTaken := by
  unfold State.writeBack; split <;> rfl
@[simp] theorem State.writeBack_ic (w : Option (RegisterId × Word)) : (s.writeBack w).ic = s.ic := by
  unfold State.writeBack; split <;> rfl
@[simp] theorem State.writeBack_dc (w : Option (RegisterId × Word)) : (s.writeBack w).dc = s.dc := by
  unfold State.writeBack; split <;> rfl
@[simp] theorem State.writeBack_dcBusy (w : Option (RegisterId × Word)) : (s.writeBack w).dcBusy = s.dcBusy := by
  unfold State.writeBack; split <;> rfl
@[simp] theorem State.writeBack_fd (w : Option (RegisterId × Word)) : (s.writeBack w).fd = s.fd := by
  unfold State.writeBack; split <;> rfl
@[simp] theorem State.writeBack_dx (w : Option (RegisterId × Word)) : (s.writeBack w).dx = s.dx := by
  unfold State.writeBack; split <;> rfl
@[simp] theorem State.writeBack_xm (w : Option (RegisterId × Word)) : (s.writeBack w).xm = s.xm := by
  unfold State.writeBack; split <;> rfl
@[simp] theorem State.writeBack_mw (w : Option (RegisterId × Word)) : (s.writeBack w).mw = s.mw := by
  unfold State.writeBack; split <;> rfl
@[simp] theorem State.writeBack_status (w : Option (RegisterId × Word)) : (s.writeBack w).status = s.status := by
  unfold State.writeBack; split <;> rfl
@[simp] theorem State.writeBack_ext (w : Option (RegisterId × Word)) : (s.writeBack w).ext = s.ext := by
  unfold State.writeBack; split <;> rfl
@[simp] theorem State.writeBack_dcwrite (w : Option (RegisterId × Word)) : (s.writeBack w).dcwrite = s.dcwrite := by
  unfold State.writeBack; split <;> rfl

/-! ### commitStore -/

@[simp] theorem State.commitStore_cfg (c : Option StoreCommit) : (s.commitStore c).cfg = s.cfg := by
  unfold State.commitStore; split <;> rfl
@[simp] theorem State.commitStore_reading (c : Option StoreCommit) : (s.commitStore c).reading = s.reading := by
  unfold State.commitStore; split <;> rfl
@[simp] theorem State.commitStore_wasReset (c : Option StoreCommit) : (s.commitStore c).wasReset = s.wasReset := by
  unfold State.commitStore; split <;> rfl
@[simp] theorem State.commitStore_inputs (c : Option StoreCommit) : (s.commitStore c).inputs = s.inputs := by
  unfold State.commitStore; split <;> rfl
@[simp] theorem State.commitStore_pc (c : Option StoreCommit) : (s.commitStore c).pc = s.pc := by
  unfold State.commitStore; split <;> rfl
@[simp] theorem State.commitStore_npc (c : Option StoreCommit) : (s.commitStore c).npc = s.npc := by
  unfold State.commitStore; split <;> rfl
@[simp] theorem State.commitStore_afterTaken (c : Option StoreCommit) : (s.commitStore c).afterTaken = s.afterTaken := by
  unfold State.commitStore; split <;> rfl
@[simp] theorem State.commitStore_rf (c : Option StoreCommit) : (s.commitStore c).rf = s.rf := by
  unfold State.commitStore; split <;> rfl
@[simp] theorem State.commitStore_ic (c : Option StoreCommit) : (s.commitStore c).ic = s.ic := by
  unfold State.commitStore; split <;> rfl
@[simp] theorem State.commitStore_fd (c : Option StoreCommit) : (s.commitStore c).fd = s.fd := by
  unfold State.commitStore; split <;> rfl
@[simp] theorem State.commitStore_dx (c : Option StoreCommit) : (s.commitStore c).dx = s.dx := by
  unfold State.commitStore; split <;> rfl
@[simp] theorem State.commitStore_xm (c : Option StoreCommit) : (s.commitStore c).xm = s.xm := by
  unfold State.commitStore; split <;> rfl
@[simp] theorem State.commitStore_mw (c : Option StoreCommit) : (s.commitStore c).mw = s.mw := by
  unfold State.commitStore; split <;> rfl
@[simp] theorem State.commitStore_status (c : Option StoreCommit) : (s.commitStore c).status = s.status := by
  unfold State.commitStore; split <;> rfl
@[simp] theorem State.commitStore_ext (c : Option StoreCommit) : (s.commitStore c).ext = s.ext := by
  unfold State.commitStore; split <;> rfl

/-! ### applyStore -/

@[simp] theorem State.applyStore_cfg (e : StoreEffect) : (s.applyStore e).cfg = s.cfg := by
  simp [State.applyStore]
@[simp] theorem State.applyStore_reading (e : StoreEffect) : (s.applyStore e).reading = s.reading := by
  simp [State.applyStore]
@[simp] theorem State.applyStore_wasReset (e : StoreEffect) : (s.applyStore e).wasReset = s.wasReset := by
  simp [State.applyStore]
@[simp] theorem State.applyStore_inputs (e : StoreEffect) : (s.applyStore e).inputs = s.inputs := by
  simp [State.applyStore]
@[simp] theorem State.applyStore_pc (e : StoreEffect) : (s.applyStore e).pc = s.pc := by
  simp [State.applyStore]
@[simp] theorem State.applyStore_npc (e : StoreEffect) : (s.applyStore e).npc = s.npc := by
  simp [State.applyStore]
@[simp] theorem State.applyStore_afterTaken (e : StoreEffect) : (s.applyStore e).afterTaken = s.afterTaken := by
  simp [State.applyStore]
@[simp] theorem State.applyStore_rf (e : StoreEffect) : (s.applyStore e).rf = s.rf := by
  simp [State.applyStore]
@[simp] theorem State.applyStore_ic (e : StoreEffect) : (s.applyStore e).ic = s.ic := by
  simp [State.applyStore]
@[simp] theorem State.applyStore_dc (e : StoreEffect) : (s.applyStore e).dc = (s.commitStore e.commit).dc := rfl
@[simp] theorem State.applyStore_dcBusy (e : StoreEffect) : (s.applyStore e).dcBusy = (s.commitStore e.commit).dcBusy := rfl
@[simp] theorem State.applyStore_fd (e : StoreEffect) : (s.applyStore e).fd = s.fd := by
  simp [State.applyStore]
@[simp] theorem State.applyStore_dx (e : StoreEffect) : (s.applyStore e).dx = s.dx := by
  simp [State.applyStore]
@[simp] theorem State.applyStore_xm (e : StoreEffect) : (s.applyStore e).xm = s.xm := by
  simp [State.applyStore]
@[simp] theorem State.applyStore_mw (e : StoreEffect) : (s.applyStore e).mw = s.mw := by
  simp [State.applyStore]
@[simp] theorem State.applyStore_status (e : StoreEffect) : (s.applyStore e).status = s.status := by
  simp [State.applyStore]
@[simp] theorem State.applyStore_ext (e : StoreEffect) : (s.applyStore e).ext = e.ext := rfl
@[simp] theorem State.applyStore_dcwrite (e : StoreEffect) : (s.applyStore e).dcwrite = (s.commitStore e.commit).dcwrite := rfl

/-! ### popInputs -/

@[simp] theorem State.popInputs_cfg : (s.popInputs).cfg = s.cfg := rfl
@[simp] theorem State.popInputs_reading : (s.popInputs).reading = s.reading := rfl
@[simp] theorem State.popInputs_wasReset : (s.popInputs).wasReset = s.wasReset := rfl
@[simp] theorem State.popInputs_inputs : (s.popInputs).inputs = s.inputs.tail := rfl
@[simp] theorem State.popInputs_pc : (s.popInputs).pc = s.pc := rfl
@[simp] theorem State.popInputs_npc : (s.popInputs).npc = s.npc := rfl
@[simp] theorem State.popInputs_afterTaken : (s.popInputs).afterTaken = s.afterTaken := rfl
@[simp] theorem State.popInputs_rf : (s.popInputs).rf = s.rf := rfl
@[simp] theorem State.popInputs_ic : (s.popInputs).ic = s.ic := rfl
@[simp] theorem State.popInputs_dc : (s.popInputs).dc = s.dc := rfl
@[simp] theorem State.popInputs_dcBusy : (s.popInputs).dcBusy = s.dcBusy := rfl
@[simp] theorem State.popInputs_fd : (s.popInputs).fd = s.fd := rfl
@[simp] theorem State.popInputs_dx : (s.popInputs).dx = s.dx := rfl
@[simp] theorem State.popInputs_xm : (s.popInputs).xm = s.xm := rfl
@[simp] theorem State.popInputs_mw : (s.popInputs).mw = s.mw := rfl
@[simp] theorem State.popInputs_status : (s.popInputs).status = s.status := rfl
@[simp] theorem State.popInputs_ext : (s.popInputs).ext = s.ext := rfl
@[simp] theorem State.popInputs_dcwrite : (s.popInputs).dcwrite = s.dcwrite := rfl

/-! ### applyFills -/

@[simp] theorem State.applyFills_cfg (inp : Inputs) : (s.applyFills inp).cfg = s.cfg := rfl
@[simp] theorem State.applyFills_reading (inp : Inputs) : (s.applyFills inp).reading = s.reading := rfl
@[simp] theorem State.applyFills_wasReset (inp : Inputs) : (s.applyFills inp).wasReset = s.wasReset := rfl
@[simp] theorem State.applyFills_inputs (inp : Inputs) : (s.applyFills inp).inputs = s.inputs := rfl
@[simp] theorem State.applyFills_pc (inp : Inputs) : (s.applyFills inp).pc = s.pc := rfl
@[simp] theorem State.applyFills_npc (inp : Inputs) : (s.applyFills inp).npc = s.npc := rfl
@[simp] theorem State.applyFills_afterTaken (inp : Inputs) : (s.applyFills inp).afterTaken = s.afterTaken := rfl
@[simp] theorem State.applyFills_rf (inp : Inputs) : (s.applyFills inp).rf = s.rf := rfl
@[simp] theorem State.applyFills_ic (inp : Inputs) : (s.applyFills inp).ic = fillICache s.ic inp.ifill := rfl
@[simp] theorem State.applyFills_dc (inp : Inputs) : (s.applyFills inp).dc = fillDCache s.dc inp.dfill := rfl
@[simp] theorem State.applyFills_dcBusy (inp : Inputs) : (s.applyFills inp).dcBusy = s.dcBusy := rfl
@[simp] theorem State.applyFills_fd (inp : Inputs) : (s.applyFills inp).fd = s.fd := rfl
@[simp] theorem State.applyFills_dx (inp : Inputs) : (s.applyFills inp).dx = s.dx := rfl
@[simp] theorem State.applyFills_xm (inp : Inputs) : (s.applyFills inp).xm = s.xm := rfl
@[simp] theorem State.applyFills_mw (inp : Inputs) : (s.applyFills inp).mw = s.mw := rfl
@[simp] theorem State.applyFills_status (inp : Inputs) : (s.applyFills inp).status = s.status := rfl
@[simp] theorem State.applyFills_ext (inp : Inputs) : (s.applyFills inp).ext = s.ext := rfl
@[simp] theorem State.applyFills_dcwrite (inp : Inputs) : (s.applyFills inp).dcwrite = s.dcwrite := rfl

/-! ### takeReset -/

@[simp] theorem State.takeReset_cfg : (s.takeReset).cfg = s.cfg := rfl
@[simp] theorem State.takeReset_reading : (s.takeReset).reading = s.reading := rfl
@[simp] theorem State.takeReset_wasReset : (s.takeReset).wasReset = true := rfl
@[simp] theorem State.takeReset_inputs : (s.takeReset).inputs = s.inputs := rfl
@[simp] theorem State.takeReset_pc : (s.takeReset).pc = s.cfg.resetVector := rfl
@[simp] theorem State.takeReset_npc : (s.takeReset).npc = s.cfg.resetVector + 4 := rfl
@[simp] theorem State.takeReset_afterTaken : (s.takeReset).afterTaken = false := rfl
@[simp] theorem State.takeReset_rf : (s.takeReset).rf = s.rf := rfl
@[simp] theorem State.takeReset_ic : (s.takeReset).ic = s.ic := rfl
@[simp] theorem State.takeReset_dc : (s.takeReset).dc = s.dc := rfl
@[simp] theorem State.takeReset_dcBusy : (s.takeReset).dcBusy = false := rfl
@[simp] theorem State.takeReset_fd : (s.takeReset).fd = none := rfl
@[simp] theorem State.takeReset_dx : (s.takeReset).dx = none := rfl
@[simp] theorem State.takeReset_xm : (s.takeReset).xm = none := rfl
@[simp] theorem State.takeReset_mw : (s.takeReset).mw = none := rfl
@[simp] theorem State.takeReset_status : (s.takeReset).status = .exceptionWB .reset := rfl
@[simp] theorem State.takeReset_ext : (s.takeReset).ext = none := rfl
@[simp] theorem State.takeReset_dcwrite : (s.takeReset).dcwrite = none := rfl

/-! ### advance -/

@[simp] theorem State.advance_cfg : (s.advance).cfg = s.cfg := rfl
@[simp] theorem State.advance_reading : (s.advance).reading = s.reading := rfl
@[simp] theorem State.advance_wasReset : (s.advance).wasReset = s.wasReset := rfl
@[simp] theorem State.advance_inputs : (s.advance).inputs = s.inputs := rfl
@[simp] theorem State.advance_pc : (s.advance).pc = s.npc := rfl
@[simp] theorem State.advance_npc : (s.advance).npc = s.npc + 4 := rfl
@[simp] theorem State.advance_afterTaken : (s.advance).afterTaken = false := rfl
@[simp] theorem State.advance_rf : (s.advance).rf = s.rf := rfl
@[simp] theorem State.advance_ic : (s.advance).ic = s.ic := rfl
@[simp] theorem State.advance_dc : (s.advance).dc = s.dc := rfl
@[simp] theorem State.advance_dcBusy : (s.advance).dcBusy = false := rfl
@[simp] theorem State.advance_fd : (s.advance).fd = s.fd := rfl
@[simp] theorem State.advance_dx : (s.advance).dx = s.dx := rfl
@[simp] theorem State.advance_xm : (s.advance).xm = s.xm := rfl
@[simp] theorem State.advance_mw : (s.advance).mw = s.mw := rfl
@[simp] theorem State.advance_status : (s.advance).status = .ok := rfl
@[simp] theorem State.advance_ext : (s.advance).ext = none := rfl
@[simp] theorem State.advance_dcwrite : (s.advance).dcwrite = none := rfl

/-! ### retire -/

@[simp] theorem State.retire_cfg (r : RegisterId) (v : Word) : (s.retire r v).cfg = s.cfg := by
  simp [State.retire]
@[simp] theorem State.retire_reading (r : RegisterId) (v : Word) : (s.retire r v).reading = s.reading := by
  simp [State.retire]
@[simp] theorem State.retire_wasReset (r : RegisterId) (v : Word) : (s.retire r v).wasReset = s.wasReset := by
  simp [State.retire]
@[simp] theorem State.retire_inputs (r : RegisterId) (v : Word) : (s.retire r v).inputs = s.inputs := by
  simp [State.retire]
@[simp] theorem State.retire_pc (r : RegisterId) (v : Word) : (s.retire r v).pc = s.npc := by
  simp [State.retire]
@[simp] theorem State.retire_npc (r : RegisterId) (v : Word) : (s.retire r v).npc = s.npc + 4 := by
  simp [State.retire]
@[simp] theorem State.retire_afterTaken (r : RegisterId) (v : Word) : (s.retire r v).afterTaken = false := by
  simp [State.retire]
@[simp] theorem State.retire_rf (r : RegisterId) (v : Word) : (s.retire r v).rf = (s.writeX r v).rf := by
  simp [State.retire]
@[simp] theorem State.retire_ic (r : RegisterId) (v : Word) : (s.retire r v).ic = s.ic := by
  simp [State.retire]
@[simp] theorem State.retire_dc (r : RegisterId) (v : Word) : (s.retire r v).dc = s.dc := by
  simp [State.retire]
@[simp] theorem State.retire_dcBusy (r : RegisterId) (v : Word) : (s.retire r v).dcBusy = false := by
  simp [State.retire]
@[simp] theorem State.retire_fd (r : RegisterId) (v : Word) : (s.retire r v).fd = s.fd := by
  simp [State.retire]
@[simp] theorem State.retire_dx (r : RegisterId) (v : Word) : (s.retire r v).dx = s.dx := by
  simp [State.retire]
@[simp] theorem State.retire_xm (r : RegisterId) (v : Word) : (s.retire r v).xm = s.xm := by
  simp [State.retire]
@[simp] theorem State.retire_mw (r : RegisterId) (v : Word) : (s.retire r v).mw = s.mw := by
  simp [State.retire]
@[simp] theorem State.retire_status (r : RegisterId) (v : Word) : (s.retire r v).status = .ok := by
  simp [State.retire]
@[simp] theorem State.retire_ext (r : RegisterId) (v : Word) : (s.retire r v).ext = none := by
  simp [State.retire]
@[simp] theorem State.retire_dcwrite (r : RegisterId) (v : Word) : (s.retire r v).dcwrite = none := by
  simp [State.retire]

/-! ### stalled -/

@[simp] theorem State.stalled_cfg (r : StallReason) : (s.stalled r).cfg = s.cfg := rfl
@[simp] theorem State.stalled_reading (r : StallReason) : (s.stalled r).reading = s.reading := rfl
@[simp] theorem State.stalled_wasReset (r : StallReason) : (s.stalled r).wasReset = s.wasReset := rfl
@[simp] theorem State.stalled_inputs (r : StallReason) : (s.stalled r).inputs = s.inputs := rfl
@[simp] theorem State.stalled_pc (r : StallReason) : (s.stalled r).pc = s.pc := rfl
@[simp] theorem State.stalled_npc (r : StallReason) : (s.stalled r).npc = s.npc := rfl
@[simp] theorem State.stalled_afterTaken (r : StallReason) : (s.stalled r).afterTaken = s.afterTaken := rfl
@[simp] theorem State.stalled_rf (r : StallReason) : (s.stalled r).rf = s.rf := rfl
@[simp] theorem State.stalled_ic (r : StallReason) : (s.stalled r).ic = s.ic := rfl
@[simp] theorem State.stalled_dc (r : StallReason) : (s.stalled r).dc = s.dc := rfl
@[simp] theorem State.stalled_dcBusy (r : StallReason) : (s.stalled r).dcBusy = false := rfl
@[simp] theorem State.stalled_fd (r : StallReason) : (s.stalled r).fd = s.fd := rfl
@[simp] theorem State.stalled_dx (r : StallReason) : (s.stalled r).dx = s.dx := rfl
@[simp] theorem State.stalled_xm (r : StallReason) : (s.stalled r).xm = s.xm := rfl
@[simp] theorem State.stalled_mw (r : StallReason) : (s.stalled r).mw = s.mw := rfl
@[simp] theorem State.stalled_status (r : StallReason) : (s.stalled r).status = .stall r := rfl
@[simp] theorem State.stalled_ext (r : StallReason) : (s.stalled r).ext = none := rfl
@[simp] theorem State.stalled_dcwrite (r : StallReason) : (s.stalled r).dcwrite = none := rfl

/-! ### transfer -/

@[simp] theorem State.transfer_cfg (t : Option Word) : (s.transfer t).cfg = s.cfg := by
  cases t <;> rfl
@[simp] theorem State.transfer_reading (t : Option Word) : (s.transfer t).reading = s.reading := by
  cases t <;> rfl
@[simp] theorem State.transfer_wasReset (t : Option Word) : (s.transfer t).wasReset = s.wasReset := by
  cases t <;> rfl
@[simp] theorem State.transfer_inputs (t : Option Word) : (s.transfer t).inputs = s.inputs := by
  cases t <;> rfl
@[simp] theorem State.transfer_pc (t : Option Word) : (s.transfer t).pc = s.npc := by
  cases t <;> rfl
@[simp] theorem State.transfer_npc (t : Option Word) : (s.transfer t).npc = t.getD (s.npc + 4) := by
  cases t <;> rfl
@[simp] theorem State.transfer_afterTaken (t : Option Word) : (s.transfer t).afterTaken = t.isSome := by
  cases t <;> rfl
@[simp] theorem State.transfer_rf (t : Option Word) : (s.transfer t).rf = s.rf := by
  cases t <;> rfl
@[simp] theorem State.transfer_ic (t : Option Word) : (s.transfer t).ic = s.ic := by
  cases t <;> rfl
@[simp] theorem State.transfer_dc (t : Option Word) : (s.transfer t).dc = s.dc := by
  cases t <;> rfl
@[simp] theorem State.transfer_dcBusy (t : Option Word) : (s.transfer t).dcBusy = false := by
  cases t <;> rfl
@[simp] theorem State.transfer_fd (t : Option Word) : (s.transfer t).fd = s.fd := by
  cases t <;> rfl
@[simp] theorem State.transfer_dx (t : Option Word) : (s.transfer t).dx = s.dx := by
  cases t <;> rfl
@[simp] theorem State.transfer_xm (t : Option Word) : (s.transfer t).xm = s.xm := by
  cases t <;> rfl
@[simp] theorem State.transfer_mw (t : Option Word) : (s.transfer t).mw = s.mw := by
  cases t <;> rfl
@[simp] theorem State.transfer_status (t : Option Word) : (s.transfer t).status = .ok := by
  cases t <;> rfl
@[simp] theorem State.transfer_ext (t : Option Word) : (s.transfer t).ext = none := by
  cases t <;> rfl
@[simp] theorem State.transfer_dcwrite (t : Option Word) : (s.transfer t).dcwrite = none := by
  cases t <;> rfl

/-! ### placeWord -/

@[simp] theorem State.placeWord_cfg (w : InsWord) : (s.placeWord w).cfg = s.cfg := rfl
@[simp] theorem State.placeWord_reading (w : InsWord) : (s.placeWord w).reading = s.reading := rfl
@[simp] theorem State.placeWord_wasReset (w : InsWord) : (s.placeWord w).wasReset = s.wasReset := rfl
@[simp] theorem State.placeWord_inputs (w : InsWord) : (s.placeWord w).inputs = s.inputs := rfl
@[simp] theorem State.placeWord_pc (w : InsWord) : (s.placeWord w).pc = s.pc := rfl
@[simp] theorem State.placeWord_npc (w : InsWord) : (s.placeWord w).npc = s.npc := rfl
@[simp] theorem State.placeWord_afterTaken (w : InsWord) : (s.placeWord w).afterTaken = s.afterTaken := rfl
@[simp] theorem State.placeWord_rf (w : InsWord) : (s.placeWord w).rf = s.rf := rfl
@[simp] theorem State.placeWord_dc (w : InsWord) : (s.placeWord w).dc = s.dc := rfl
@[simp] theorem State.placeWord_dcBusy (w : InsWord) : (s.placeWord w).dcBusy = s.dcBusy := rfl
@[simp] theorem State.placeWord_fd (w : InsWord) : (s.placeWord w).fd = s.fd := rfl
@[simp] theorem State.placeWord_dx (w : InsWord) : (s.placeWord w).dx = s.dx := rfl
@[simp] theorem State.placeWord_xm (w : InsWord) : (s.placeWord w).xm = s.xm := rfl
@[simp] theorem State.placeWord_mw (w : InsWord) : (s.placeWord w).mw = s.mw := rfl
@[simp] theorem State.placeWord_status (w : InsWord) : (s.placeWord w).status = s.status := rfl
@[simp] theorem State.placeWord_ext (w : InsWord) : (s.placeWord w).ext = s.ext := rfl
@[simp] theorem State.placeWord_dcwrite (w : InsWord) : (s.placeWord w).dcwrite = s.dcwrite := rfl

/-! ### What the remaining fields become -/

theorem State.writeX_rf (r : RegisterId) (v : Word) :
    (s.writeX r v).rf = if Config.isZeroRegister s.cfg r then s.rf else s.rf.set (RegisterId.place r) v := by
  unfold State.writeX Config.realDest
  split <;> split at * <;> simp_all

@[simp] theorem State.writeBack_none : s.writeBack none = s := rfl

@[simp] theorem State.writeBack_some (r : RegisterId) (v : Word) : s.writeBack (some (r, v)) = s.setReg r v := rfl

@[simp] theorem State.commitStore_none : s.commitStore none = s := rfl

@[simp] theorem State.commitStore_dcBusy (c : Option StoreCommit) :
    (s.commitStore c).dcBusy = (s.dcBusy || c.isSome) := by
  cases c <;> simp [State.commitStore]

theorem State.commitStore_some_dc (c : StoreCommit) :
    (s.commitStore (some c)).dc =
      Memory.set DLine.absent s.dc c.index { s.dline c.index with data := c.newdata, dirty := true } := rfl

@[simp] theorem State.commitStore_some_dcwrite (c : StoreCommit) :
    (s.commitStore (some c)).dcwrite = some c.record := rfl

end Sys2Proof.Machine
end

