-- ==== Sys2Proof/Laws/Access.lean ====
section
/-! SUPPORT. What a data access can come to, said once: `accessMask`, `lookup`, `memRead`, `memWrite`, and the load,
store and branch operations over them. -/

namespace Sys2Proof.Machine

/-- R78: an aligned access of a legal width lies inside its doubleword. -/
theorem accessMask_aligned {addr : Word} {n : Nat} (hn : n = 1 ∨ n = 2 ∨ n = 4 ∨ n = 8)
    (ha : addr.toNat % n = 0) : accessMask addr n = .ok { size := n - 1, align := offsetOf addr } := by
  have hfit : n - 1 + offsetOf addr ≤ 7 := by
    unfold offsetOf
    rcases hn with rfl | rfl | rfl | rfl <;> omega
  simp [accessMask, ha, MemMask.make, hfit]

/-- R78: a misaligned access faults, whatever else holds. -/
theorem accessMask_misaligned {addr : Word} {n : Nat} (ha : addr.toNat % n ≠ 0) :
    accessMask addr n = .error (.fault .misalignedAccess) := by
  simp [accessMask, ha]

/-- R83: the three things a lookup can answer. -/
theorem State.lookup_cases (s : State) (addr : Word) :
    (s.dcBusy = true ∧ s.lookup addr = .stall .dataCacheBusy) ∨
    (s.dcBusy = false ∧ s.dhit addr = false ∧ s.lookup addr = .stall .dataCacheMiss) ∨
    (s.dcBusy = false ∧ s.dhit addr = true ∧ s.lookup addr = .done (s.dline (Config.dindex s.cfg addr))) := by
  unfold State.lookup
  cases s.dcBusy <;> cases s.dhit addr <;> simp

/-- R80: everything a load access that does not stop can come to. -/
theorem State.memRead_ok {s : State} {addr : Word} {n : Nat} {signed : Bool} {a : Serviced Word}
    (h : s.memRead addr n signed = .ok a) :
    ∃ m, accessMask addr n = .ok m ∧ Config.inCachedWindow s.cfg addr = true ∧
      ((∃ r, s.lookup addr = .stall r ∧ a = .stall r) ∨
       (∃ line, s.lookup addr = .done line ∧
          a = .done (if signed then extractSigned m line.data else extract m line.data))) := by
  unfold State.memRead at h
  split at h
  · cases h
  · rename_i m hm
    refine ⟨m, hm, ?_⟩
    split at h
    · rename_i hw
      refine ⟨hw, ?_⟩
      split at h
      · rename_i r hr
        cases h
        exact .inl ⟨r, hr, rfl⟩
      · rename_i line hl
        cases h
        exact .inr ⟨line, hl, rfl⟩
    · cases h

/-- R81, R84: everything a store access that does not stop can come to. -/
theorem State.memWrite_ok {s : State} {addr : Word} {n : Nat} {v : Word} {a : Serviced StoreEffect}
    (h : s.memWrite addr n v = .ok a) :
    ∃ m, accessMask addr n = .ok m ∧
      ((Config.inCachedWindow s.cfg addr = true ∧ ∃ r, s.lookup addr = .stall r ∧ a = .stall r) ∨
       (Config.inCachedWindow s.cfg addr = true ∧ ∃ line, s.lookup addr = .done line ∧
          a = .done { commit := some (Config.storeCommit s.cfg addr m v line), ext := none }) ∨
       (Config.inCachedWindow s.cfg addr = false ∧
          a = .done { commit := none, ext := some (externalStore addr m v) })) := by
  unfold State.memWrite at h
  split at h
  · cases h
  · rename_i m hm
    refine ⟨m, hm, ?_⟩
    split at h
    · rename_i hw
      split at h
      · rename_i r hr
        cases h
        exact .inl ⟨hw, r, hr, rfl⟩
      · rename_i line hl
        cases h
        exact .inr (.inl ⟨hw, line, hl, rfl⟩)
    · rename_i hw
      cases h
      exact .inr (.inr ⟨by simpa using hw, rfl⟩)

/-- A stop is never a next state. -/
theorem Stop.outcome_ne_next (e : Stop) (t : State) : e.outcome ≠ .next t := by
  cases e <;> simp [Stop.outcome]

/-- R80, R221: everything a load that answers a next state can do: wait, or write the loaded value. -/
theorem State.load_next {s t : State} {rt : RegisterId} {addr : Word} {n : Nat} {signed : Bool}
    (h : s.load rt addr n signed = .next t) :
    (∃ r, s.memRead addr n signed = .ok (.stall r) ∧ t = s.stalled r) ∨
    (∃ v, s.memRead addr n signed = .ok (.done v) ∧ t = s.retire rt v) := by
  unfold State.load at h
  split at h
  · exact absurd h (Stop.outcome_ne_next _ _)
  · rename_i r hr
    cases h
    exact .inl ⟨r, hr, rfl⟩
  · rename_i v hv
    cases h
    exact .inr ⟨v, hv, rfl⟩

/-- R81, R221: everything a store that answers a next state can do: wait, or have its effect. -/
theorem State.store_next {s t : State} {addr : Word} {n : Nat} {v : Word} (h : s.store addr n v = .next t) :
    (∃ r, s.memWrite addr n v = .ok (.stall r) ∧ t = s.stalled r) ∨
    (∃ e, s.memWrite addr n v = .ok (.done e) ∧ t = s.advance.applyStore e) := by
  unfold State.store at h
  split at h
  · exact absurd h (Stop.outcome_ne_next _ _)
  · rename_i r hr
    cases h
    exact .inl ⟨r, hr, rfl⟩
  · rename_i e he
    cases h
    exact .inr ⟨e, he, rfl⟩

/-- R250, R257: everything a control transfer that answers a next state can do. -/
theorem State.branch_next {s t : State} {target : Option Word} (h : s.branch target = .next t) :
    s.afterTaken = false ∧ t = s.transfer target := by
  unfold State.branch at h
  split at h
  · cases h
  · rename_i ha
    cases h
    exact ⟨by simpa using ha, rfl⟩

end Sys2Proof.Machine
end

