-- ==== Sys2Proof/Laws/Cycle.lean ====
section
/-! SUPPORT. Everything a step can do, said once. -/

namespace Sys2Proof.Machine

/-- R296: everything the five stages that do not stop have been. -/
theorem evaluateStages_ok {s : State} {t : Stages} (h : evaluateStages s = .ok t) :
    t.write = writebackStage s ∧ t.execute = executeStage s ∧ memoryStage s = .ok t.memory ∧
      decodeUnlessStalled s (executeStage s) t.memory (writebackStage s) = .ok t.decode ∧
      fetchStage s = .ok t.fetch := by
  unfold evaluateStages at h
  split at h
  · cases h
  · rename_i m hm
    split at h
    · cases h
    · rename_i d hd
      split at h
      · cases h
      · rename_i f hf
        cases h
        exact ⟨rfl, rfl, hm, hd, hf⟩

/-- R287: everything a fetch that does not stop can give. -/
theorem fetchStage_ok {s : State} {f : Option FetchDecode} (h : fetchStage s = .ok f) :
    s.pc.toNat % 4 = 0 ∧
      ((s.ihit s.pc = false ∧ f = none) ∨
       (s.ihit s.pc = true ∧
          f = some { pc := s.pc, word := wordInLine s.pc (s.iline (Config.iindex s.cfg s.pc)).data })) := by
  unfold fetchStage State.fetch at h
  by_cases ha : s.pc.toNat % 4 = 0
  · cases hh : s.ihit s.pc <;> simp [ha, hh] at h <;> simp [ha, ← h]
  · simp [ha] at h

/-- R281: everything a Decode stage that does not stop can give. -/
theorem decodeStage_ok {s : State} {x : ExecuteResult} {m : MemoryResult} {w : Option (RegisterId × Word)}
    {d : DecodeResult} (h : decodeStage s x m w = .ok d) :
    (s.fd = none ∧ d = DecodeResult.empty) ∨
    (∃ f i, s.fd = some f ∧ decode f.word = .ok i ∧ ¬(isTransfer i = true ∧ s.inDelaySlot = true) ∧
      (((sources i).any (interlocks s.cfg x) = true ∧ d = { DecodeResult.empty with interlock := true }) ∨
       ((sources i).any (interlocks s.cfg x) = false ∧ d = issue f.pc i (operandValue s x m w)))) := by
  unfold decodeStage at h
  split at h
  · rename_i hf
    cases h
    exact .inl ⟨hf, rfl⟩
  · rename_i f hf
    split at h
    · cases h
    · rename_i i hi
      split at h
      · cases h
      · rename_i hs
        refine .inr ⟨f, i, hf, hi, by simpa using hs, ?_⟩
        split at h
        · rename_i hl
          cases h
          exact .inl ⟨hl, rfl⟩
        · rename_i hl
          cases h
          exact .inr ⟨by simpa using hl, rfl⟩

/-- R274: everything a Memory stage that does not stop can give. -/
theorem memoryStage_ok {s : State} {m : MemoryResult} (h : memoryStage s = .ok m) :
    (s.xm = none ∧ m = MemoryResult.empty) ∨
    (∃ r, s.xm = some r ∧
      ((∃ why, (accessOf r.ins).isSome ∧ m = MemoryResult.stalled why) ∨
       (∃ n signed v, accessOf r.ins = some (.load n signed) ∧ s.memRead r.result n signed = .ok (.done v) ∧
          m = MemoryResult.result r (Config.dest s.cfg r.ins) v) ∨
       (∃ n e, accessOf r.ins = some (.store n) ∧ s.memWrite r.result n r.sdata = .ok (.done e) ∧
          m = MemoryResult.effect r e) ∨
       (accessOf r.ins = none ∧ isTransfer r.ins = true ∧ m = MemoryResult.effect r StoreEffect.none) ∨
       (accessOf r.ins = none ∧ isTransfer r.ins = false ∧
          m = MemoryResult.result r (Config.dest s.cfg r.ins) r.result))) := by
  unfold memoryStage at h
  split at h
  · rename_i hx
    cases h
    exact .inl ⟨hx, rfl⟩
  · rename_i r hx
    refine .inr ⟨r, hx, ?_⟩
    split at h
    · rename_i n signed ha
      split at h
      · cases h
      · cases h
        exact .inl ⟨_, by simp [ha], rfl⟩
      · rename_i v hv
        cases h
        exact .inr (.inl ⟨n, signed, v, ha, hv, rfl⟩)
    · rename_i n ha
      split at h
      · cases h
      · cases h
        exact .inl ⟨_, by simp [ha], rfl⟩
      · rename_i e he
        cases h
        exact .inr (.inr (.inl ⟨n, e, ha, he, rfl⟩))
    · rename_i ha
      split at h
      · rename_i ht
        cases h
        exact .inr (.inr (.inr (.inl ⟨ha, ht, rfl⟩)))
      · rename_i ht
        cases h
        exact .inr (.inr (.inr (.inr ⟨ha, by simpa using ht, rfl⟩)))

/-- R291: the three kinds of commit. -/
theorem State.commitCycle_cases (s : State) (t : Stages) :
    (t.status = .ok ∧ s.commitCycle t = { (s.commitFrontEnd t).commitBackEnd t with status := .ok }) ∨
    (t.status = .stall .loadInterlock ∧
      s.commitCycle t = { (s.commitBackEnd t) with dx := none, status := .stall .loadInterlock }) ∨
    (∃ r, r ≠ .loadInterlock ∧ t.status = .stall r ∧ s.commitCycle t = s.stalled r) := by
  unfold State.commitCycle
  cases h : t.status with
  | ok => simp
  | stall r => cases r <;> simp
  | exceptionWB r =>
    unfold Stages.status statusOf at h
    simp only [Bool.false_eq_true, if_false] at h
    split at h
    · cases h
    · split at h
      · cases h
      · split at h <;> cases h

/-- R290: what each status of a cycle without reset says of the stages. -/
theorem Stages.status_cases (t : Stages) :
    (∃ r, t.memory.stall = some r ∧ t.status = .stall r) ∨
    (t.memory.stall = none ∧ t.decode.interlock = true ∧ t.status = .stall .loadInterlock) ∨
    (t.memory.stall = none ∧ t.decode.interlock = false ∧ t.fetch = none ∧
      t.status = .stall .instructionCacheBusy) ∨
    (t.memory.stall = none ∧ t.decode.interlock = false ∧ (∃ f, t.fetch = some f) ∧ t.status = .ok) := by
  unfold Stages.status statusOf
  cases h : t.memory.stall <;> cases h' : t.decode.interlock <;> cases h'' : t.fetch <;> simp

/-- R296: everything a clock cycle that answers a next state can do. -/
theorem cycleStep_next {s t : State} (h : cycleStep s = .next t) :
    (s.nextInputs.reset = true ∧ t = s.popInputs.takeReset.applyFills s.nextInputs) ∨
    (s.nextInputs.reset = false ∧ s.wasReset = true ∧ ∃ g, evaluateStages s.popInputs = .ok g ∧
      t = (s.popInputs.commitCycle g).applyFills s.nextInputs) := by
  unfold cycleStep at h
  split at h
  · rename_i hr
    cases h
    exact .inl ⟨hr, rfl⟩
  · rename_i hr
    refine .inr ⟨by simpa using hr, ?_⟩
    unfold runCycle at h
    by_cases hw : s.wasReset = true
    · refine ⟨hw, ?_⟩
      cases he : evaluateStages s.popInputs with
      | error e => simp [hw, he, Stop.outcome_ne_next] at h
      | ok g =>
        simp only [State.popInputs_wasReset, hw, he, if_true] at h
        cases h
        exact ⟨g, rfl, rfl⟩
    · simp [hw, Stop.outcome] at h

/-- R259: everything a step of the instruction-level reading that answers a next state can do. -/
theorem instructionStep_next {s t : State} (h : instructionStep s = .next t) :
    (s.nextInputs.reset = true ∧ t = s.popInputs.takeReset.applyFills s.nextInputs) ∨
    (s.nextInputs.reset = false ∧ s.wasReset = true ∧
      ((s.popInputs.fetch = .ok none ∧ t = (s.popInputs.stalled .instructionCacheBusy).applyFills s.nextInputs) ∨
       (∃ w i u, s.popInputs.fetch = .ok (some w) ∧ decode w = .ok i ∧ exec i s.popInputs = .next u ∧
          t = u.applyFills s.nextInputs))) := by
  unfold instructionStep at h
  split at h
  · rename_i hr
    cases h
    exact .inl ⟨hr, rfl⟩
  · rename_i hr
    refine .inr ⟨by simpa using hr, ?_⟩
    unfold runInstruction at h
    by_cases hw : s.wasReset = true
    · refine ⟨hw, ?_⟩
      simp only [State.popInputs_wasReset, hw, if_true] at h
      cases hf : s.popInputs.fetch with
      | error e => cases e <;> simp [hf, Stop.outcome, finish] at h
      | ok o =>
        cases o with
        | none =>
          simp only [hf, finish] at h
          cases h
          exact .inl ⟨rfl, rfl⟩
        | some w =>
          simp only [hf, runWord] at h
          cases hd : decode w with
          | error e => simp [hd, finish] at h
          | ok i =>
            simp only [hd] at h
            cases he : exec i s.popInputs with
            | next u =>
              simp only [he, finish] at h
              cases h
              exact .inr ⟨w, i, u, rfl, hd, he, rfl⟩
            | fault f => simp [he, finish] at h
            | refused f => simp [he, finish] at h
    · simp [hw, finish] at h

/-- R13, R14: a step is a cycle or an instruction, by the reading. -/
theorem step_cycle {s : State} (h : s.reading = .cycle) : step s = cycleStep s := by simp [step, h]

theorem step_instruction {s : State} (h : s.reading = .instruction) : step s = instructionStep s := by simp [step, h]

/-- A cycle without reset, after the first reset, is its stages: what they answer is committed, and the fills follow. -/
theorem step_cycle_stages {s : State} (hr : s.reading = .cycle) (hn : s.nextInputs.reset = false)
    (hw : s.wasReset = true) :
    step s = match evaluateStages s.popInputs with
      | .error e => e.outcome
      | .ok g => .next ((s.popInputs.commitCycle g).applyFills s.nextInputs) := by
  rw [step_cycle hr]
  unfold cycleStep runCycle
  have h : s.popInputs.wasReset = true := hw
  simp only [hn, h]
  cases evaluateStages s.popInputs <;> simp

end Sys2Proof.Machine
end

