-- ==== Sys2Proof/Laws/Decode.lean ====
section
/-! SUPPORT. The fields of an encoded word (R112), their values as numbers, and the byte order of a word (R66). -/

namespace Sys2Proof

/-! ### Slices of a concatenation -/

/-- A slice of the high part. -/
theorem slice_high {v w : Nat} (x : BitVec v) (y : BitVec w) (start len : Nat) :
    (x ++ y).extractLsb' (w + start) len = x.extractLsb' start len := by
  ext i hi
  simp [BitVec.getLsbD_append, show ¬ w + start + i < w by omega, show w + start + i - w = start + i by omega]

/-- A slice of the low part. -/
theorem slice_low {v w : Nat} (x : BitVec v) (y : BitVec w) {start len : Nat} (h : start + len ≤ w) :
    (x ++ y).extractLsb' start len = y.extractLsb' start len := by
  ext i hi
  simp [BitVec.getLsbD_append, show start + i < w by omega]

/-- The whole of a bit vector is a slice of it. -/
theorem slice_all {w : Nat} (x : BitVec w) : x.extractLsb' 0 w = x := by
  ext i hi
  simp [← BitVec.getLsbD_eq_getElem]

variable (op func : BitVec 6) (rs rt rd sh : BitVec 5) (imm : BitVec 16) (target : BitVec 26)

/-! ### The fields of an I-type word -/

@[simp] theorem opField_encodeI : opField (encodeI op rs rt imm) = op :=
  (slice_high (op ++ rs ++ rt) imm 10 6).trans
    ((slice_high (op ++ rs) rt 5 6).trans ((slice_high op rs 0 6).trans (slice_all op)))

@[simp] theorem rsField_encodeI : rsField (encodeI op rs rt imm) = rs :=
  (slice_high (op ++ rs ++ rt) imm 5 5).trans
    ((slice_high (op ++ rs) rt 0 5).trans ((slice_low op rs (by decide)).trans (slice_all rs)))

@[simp] theorem rtField_encodeI : rtField (encodeI op rs rt imm) = rt :=
  (slice_high (op ++ rs ++ rt) imm 0 5).trans ((slice_low (op ++ rs) rt (by decide)).trans (slice_all rt))

@[simp] theorem immField_encodeI : immField (encodeI op rs rt imm) = imm :=
  (slice_low (op ++ rs ++ rt) imm (by decide)).trans (slice_all imm)

/-! ### The fields of an R-type word -/

@[simp] theorem opField_encodeR : opField (encodeR rs rt rd sh func) = 0 :=
  (slice_high ((0 : BitVec 6) ++ rs ++ rt ++ rd ++ sh) func 20 6).trans
    ((slice_high ((0 : BitVec 6) ++ rs ++ rt ++ rd) sh 15 6).trans
      ((slice_high ((0 : BitVec 6) ++ rs ++ rt) rd 10 6).trans
        ((slice_high ((0 : BitVec 6) ++ rs) rt 5 6).trans
          ((slice_high (0 : BitVec 6) rs 0 6).trans (slice_all _)))))

@[simp] theorem rsField_encodeR : rsField (encodeR rs rt rd sh func) = rs :=
  (slice_high ((0 : BitVec 6) ++ rs ++ rt ++ rd ++ sh) func 15 5).trans
    ((slice_high ((0 : BitVec 6) ++ rs ++ rt ++ rd) sh 10 5).trans
      ((slice_high ((0 : BitVec 6) ++ rs ++ rt) rd 5 5).trans
        ((slice_high ((0 : BitVec 6) ++ rs) rt 0 5).trans
          ((slice_low (0 : BitVec 6) rs (by decide)).trans (slice_all rs)))))

@[simp] theorem rtField_encodeR : rtField (encodeR rs rt rd sh func) = rt :=
  (slice_high ((0 : BitVec 6) ++ rs ++ rt ++ rd ++ sh) func 10 5).trans
    ((slice_high ((0 : BitVec 6) ++ rs ++ rt ++ rd) sh 5 5).trans
      ((slice_high ((0 : BitVec 6) ++ rs ++ rt) rd 0 5).trans
        ((slice_low ((0 : BitVec 6) ++ rs) rt (by decide)).trans (slice_all rt))))

@[simp] theorem rdField_encodeR : rdField (encodeR rs rt rd sh func) = rd :=
  (slice_high ((0 : BitVec 6) ++ rs ++ rt ++ rd ++ sh) func 5 5).trans
    ((slice_high ((0 : BitVec 6) ++ rs ++ rt ++ rd) sh 0 5).trans
      ((slice_low ((0 : BitVec 6) ++ rs ++ rt) rd (by decide)).trans (slice_all rd)))

@[simp] theorem shiftField_encodeR : shiftField (encodeR rs rt rd sh func) = sh :=
  (slice_high ((0 : BitVec 6) ++ rs ++ rt ++ rd ++ sh) func 0 5).trans
    ((slice_low ((0 : BitVec 6) ++ rs ++ rt ++ rd) sh (by decide)).trans (slice_all sh))

@[simp] theorem funcField_encodeR : funcField (encodeR rs rt rd sh func) = func :=
  (slice_low ((0 : BitVec 6) ++ rs ++ rt ++ rd ++ sh) func (by decide)).trans (slice_all func)

/-! ### The fields of a J-type word -/

@[simp] theorem opField_encodeJ : opField (encodeJ op target) = op :=
  (slice_high op target 0 6).trans (slice_all op)

@[simp] theorem targetField_encodeJ : targetField (encodeJ op target) = target :=
  (slice_low op target (by decide)).trans (slice_all target)

/-! ### Registers and bytes -/

/-- R114: a register a field can name is read back from its field. -/
@[simp] theorem regOfField_field {r : RegisterId} (h : r.isInteger = true) : regOfField r.field = r := by
  cases r with
  | integer n => rfl
  | float n => simp [RegisterId.isInteger] at h

@[simp] theorem field_regOfField (f : BitVec 5) : (regOfField f).field = f := rfl

@[simp] theorem isInteger_regOfField (f : BitVec 5) : (regOfField f).isInteger = true := rfl

/-! ### The value of a field -/

theorem immField_toNat (w : InsWord) : (immField w).toNat = w.toNat % 2 ^ 16 := by
  simp [immField, BitVec.extractLsb'_toNat]

theorem targetField_toNat (w : InsWord) : (targetField w).toNat = w.toNat % 2 ^ 26 := by
  simp [targetField, BitVec.extractLsb'_toNat]

theorem shiftField_toNat (w : InsWord) : (shiftField w).toNat = w.toNat / 2 ^ 6 % 2 ^ 5 := by
  simp [shiftField, BitVec.extractLsb'_toNat, Nat.shiftRight_eq_div_pow]

/-- R114: the register read from the five bits at `lo` is the one named there. -/
theorem namedAt_regOfField (w : InsWord) (lo : Nat) : Safety.NamedAt w lo (regOfField (w.extractLsb' lo 5)) := by
  refine ⟨_, rfl, ?_⟩
  simp [Nat.shiftRight_eq_div_pow]

/-! ### A word is its fields (R112) -/

/-- An I-type word put together again from its fields. -/
theorem encodeI_fields (w : InsWord) (op : BitVec 6) (h : opField w = op) :
    encodeI op (rsField w) (rtField w) (immField w) = w := by
  subst h
  apply BitVec.eq_of_getLsbD_eq
  intro k hk
  simp only [encodeI, opField, rsField, rtField, immField, BitVec.getLsbD_append, BitVec.getLsbD_extractLsb']
  by_cases h1 : k < 16
  · simp [h1]
  · by_cases h2 : k < 21
    · simp [h1, show k - 16 < 5 by omega, show 16 + (k - 16) = k by omega]
    · by_cases h3 : k < 26
      · simp [h1, show ¬ k - 16 < 5 by omega, show k - 16 - 5 < 5 by omega, show 21 + (k - 16 - 5) = k by omega]
      · simp [h1, show ¬ k - 16 < 5 by omega, show ¬ k - 16 - 5 < 5 by omega, show k - 16 - 5 - 5 < 6 by omega,
          show 26 + (k - 16 - 5 - 5) = k by omega]

/-- A J-type word put together again from its fields. -/
theorem encodeJ_fields (w : InsWord) (op : BitVec 6) (h : opField w = op) : encodeJ op (targetField w) = w := by
  subst h
  apply BitVec.eq_of_getLsbD_eq
  intro k hk
  simp only [encodeJ, opField, targetField, BitVec.getLsbD_append, BitVec.getLsbD_extractLsb']
  by_cases h1 : k < 26
  · simp [h1]
  · simp [h1, show k - 26 < 6 by omega, show 26 + (k - 26) = k by omega]

/-- A word with `op = 0` put together again from its fields. -/
theorem encodeR_fields (w : InsWord) (h : opField w = 0) :
    encodeR (rsField w) (rtField w) (rdField w) (shiftField w) (funcField w) = w := by
  apply BitVec.eq_of_getLsbD_eq
  intro k hk
  have h0 : ∀ j, (opField w).getLsbD j = false := by rw [h]; simp
  simp only [encodeR, rsField, rtField, rdField, shiftField, funcField, BitVec.getLsbD_append,
      BitVec.getLsbD_extractLsb']
  by_cases h1 : k < 6
  · simp [h1]
  · by_cases h2 : k < 11
    · simp [h1, show k - 6 < 5 by omega, show 6 + (k - 6) = k by omega]
    · by_cases h3 : k < 16
      · simp [h1, show ¬ k - 6 < 5 by omega, show k - 6 - 5 < 5 by omega, show 11 + (k - 6 - 5) = k by omega]
      · by_cases h4 : k < 21
        · simp [h1, show ¬ k - 6 < 5 by omega, show ¬ k - 6 - 5 < 5 by omega, show k - 6 - 5 - 5 < 5 by omega,
            show 16 + (k - 6 - 5 - 5) = k by omega]
        · by_cases h5 : k < 26
          · simp [h1, show ¬ k - 6 < 5 by omega, show ¬ k - 6 - 5 < 5 by omega,
              show ¬ k - 6 - 5 - 5 < 5 by omega, show k - 6 - 5 - 5 - 5 < 5 by omega,
                  show 21 + (k - 6 - 5 - 5 - 5) = k by omega]
          · have := h0 (k - 26)
            simp [opField, show k - 26 < 6 by omega, show 26 + (k - 26) = k by omega] at this
            simp [h1, show ¬ k - 6 < 5 by omega, show ¬ k - 6 - 5 < 5 by omega,
                show ¬ k - 6 - 5 - 5 < 5 by omega, show ¬ k - 6 - 5 - 5 - 5 < 5 by omega, this]

/-- R66: a word put together again from its bytes. -/
theorem wordOfBytes_wordBytes (w : InsWord) :
    wordOfBytes (w.extractLsb' 24 8) (w.extractLsb' 16 8) (w.extractLsb' 8 8) (w.extractLsb' 0 8) = w := by
  unfold wordOfBytes
  apply BitVec.eq_of_getLsbD_eq
  intro k hk
  simp only [BitVec.getLsbD_append, BitVec.getLsbD_extractLsb']
  by_cases h1 : k < 8
  · simp [h1]
  · by_cases h2 : k < 16
    · simp [h1, show k - 8 < 8 by omega, show 8 + (k - 8) = k by omega]
    · by_cases h3 : k < 24
      · simp [h1, show ¬ k - 8 < 8 by omega, show k - 8 - 8 < 8 by omega, show 16 + (k - 8 - 8) = k by omega]
      · simp [h1, show ¬ k - 8 < 8 by omega, show ¬ k - 8 - 8 < 8 by omega, show k - 8 - 8 - 8 < 8 by omega,
          show 24 + (k - 8 - 8 - 8) = k by omega]

end Sys2Proof
end

