-- ==== Sys2Proof/Laws/Exec.lean ====
section
/-! SUPPORT. Every instruction's own meaning is what the pipeline's table (R122) says of it, and everything `exec` can
do when it answers a next state. -/

namespace Sys2Proof.Machine

/-- The instruction-level effect as the table of R122 gives it. -/
def tableEffect (i : Instr) (s : State) : Host.Outcome State Fault Refusal :=
  match accessOf i with
  | some (.load n signed) =>
    match destField i with
    | some rt => s.load rt (alu .add64 (aluOperands s.x i).1 (aluOperands s.x i).2) n signed
    | none => .next s
  | some (.store n) => s.store (alu .add64 (aluOperands s.x i).1 (aluOperands s.x i).2) n (storeData s.x i)
  | none =>
    match aluMode i, destField i with
    | some mode, some r => .next (s.retire r (alu mode (aluOperands s.x i).1 (aluOperands s.x i).2))
    | _, _ => s.branch (redirectOf s.pc s.x i)

/-- R14: each meaning, written from its own rule, agrees with the table of R122. -/
theorem exec_eq_tableEffect (i : Instr) (s : State) : exec i s = tableEffect i s := by
  cases i with
  | bne rs rt imm => by_cases h : s.x rs = s.x rt <;> simp [exec, execBne, tableEffect, accessOf, aluMode, redirectOf, h]
  | _ => rfl

/-- Everything an instruction that answers a next state can do (R251, R205, R221): write one register and go on, have a
store's effect and go on, transfer, or wait on the DCache. -/
theorem exec_next {i : Instr} {s t : State} (h : exec i s = .next t) :
    (∃ r v, destField i = some r ∧ t = s.retire r v) ∨
    (∃ n v e, accessOf i = some (.store n) ∧ s.memWrite (alu .add64 (aluOperands s.x i).1 (aluOperands s.x i).2) n v
        = .ok (.done e) ∧ t = s.advance.applyStore e) ∨
    (isTransfer i = true ∧ s.afterTaken = false ∧ t = s.transfer (redirectOf s.pc s.x i)) ∨
    ((accessOf i).isSome ∧ ∃ r, t = s.stalled r) := by
  rw [exec_eq_tableEffect] at h
  cases i <;> simp only [tableEffect, accessOf, aluMode, destField] at h
  all_goals first
    | (cases h; exact .inl ⟨_, _, rfl, rfl⟩)
    | (rcases State.load_next h with ⟨r, -, rfl⟩ | ⟨v, -, rfl⟩
       · exact .inr (.inr (.inr ⟨rfl, r, rfl⟩))
       · exact .inl ⟨_, v, rfl, rfl⟩)
    | (rcases State.store_next h with ⟨r, -, rfl⟩ | ⟨e, he, rfl⟩
       · exact .inr (.inr (.inr ⟨rfl, r, rfl⟩))
       · exact .inr (.inl ⟨_, _, e, rfl, he, rfl⟩))
    | (obtain ⟨ha, rfl⟩ := State.branch_next h
       exact .inr (.inr (.inl ⟨rfl, ha, rfl⟩)))

end Sys2Proof.Machine
end

