-- ==== Sys2Proof/Laws/PerInstr.lean ====
section
/-! SUPPORT. Facts about every instruction as syntax, one lemma per constructor. Family `IntegerRegisters`: a
well-formed instruction reads and writes `Integer` registers only (R31, R114). -/

namespace Sys2Proof.Laws

/-- R31: every register the instruction reads or writes is an `Integer` register. -/
def IntegerRegisters.Statement (i : Instr) : Prop :=
  i.wellFormed = true →
    (∀ r ∈ Machine.sources i, r.isInteger = true) ∧
    (∀ r, Machine.destField i = some r → r.isInteger = true)

theorem IntegerRegisters.lui (rt : RegisterId) (imm : BitVec 16) :
    IntegerRegisters.Statement (.lui rt imm) := by
  simp +contextual [IntegerRegisters.Statement, Instr.wellFormed, Machine.sources, Machine.destField]

theorem IntegerRegisters.ori (rt rs : RegisterId) (imm : BitVec 16) :
    IntegerRegisters.Statement (.ori rt rs imm) := by
  simp +contextual [IntegerRegisters.Statement, Instr.wellFormed, Machine.sources, Machine.destField]

theorem IntegerRegisters.daddiu (rt rs : RegisterId) (imm : BitVec 16) :
    IntegerRegisters.Statement (.daddiu rt rs imm) := by
  simp +contextual [IntegerRegisters.Statement, Instr.wellFormed, Machine.sources, Machine.destField]

theorem IntegerRegisters.slti (rt rs : RegisterId) (imm : BitVec 16) :
    IntegerRegisters.Statement (.slti rt rs imm) := by
  simp +contextual [IntegerRegisters.Statement, Instr.wellFormed, Machine.sources, Machine.destField]

theorem IntegerRegisters.sltiu (rt rs : RegisterId) (imm : BitVec 16) :
    IntegerRegisters.Statement (.sltiu rt rs imm) := by
  simp +contextual [IntegerRegisters.Statement, Instr.wellFormed, Machine.sources, Machine.destField]

theorem IntegerRegisters.or (rd rs rt : RegisterId) :
    IntegerRegisters.Statement (.or rd rs rt) := by
  simp +contextual [IntegerRegisters.Statement, Instr.wellFormed, Machine.sources, Machine.destField]

theorem IntegerRegisters.slt (rd rs rt : RegisterId) :
    IntegerRegisters.Statement (.slt rd rs rt) := by
  simp +contextual [IntegerRegisters.Statement, Instr.wellFormed, Machine.sources, Machine.destField]

theorem IntegerRegisters.sltu (rd rs rt : RegisterId) :
    IntegerRegisters.Statement (.sltu rd rs rt) := by
  simp +contextual [IntegerRegisters.Statement, Instr.wellFormed, Machine.sources, Machine.destField]

theorem IntegerRegisters.daddu (rd rs rt : RegisterId) :
    IntegerRegisters.Statement (.daddu rd rs rt) := by
  simp +contextual [IntegerRegisters.Statement, Instr.wellFormed, Machine.sources, Machine.destField]

theorem IntegerRegisters.dsubu (rd rs rt : RegisterId) :
    IntegerRegisters.Statement (.dsubu rd rs rt) := by
  simp +contextual [IntegerRegisters.Statement, Instr.wellFormed, Machine.sources, Machine.destField]

theorem IntegerRegisters.sll (rd rt : RegisterId) (sa : BitVec 5) :
    IntegerRegisters.Statement (.sll rd rt sa) := by
  simp +contextual [IntegerRegisters.Statement, Instr.wellFormed, Machine.sources, Machine.destField]

theorem IntegerRegisters.srl (rd rt : RegisterId) (sa : BitVec 5) :
    IntegerRegisters.Statement (.srl rd rt sa) := by
  simp +contextual [IntegerRegisters.Statement, Instr.wellFormed, Machine.sources, Machine.destField]

theorem IntegerRegisters.sra (rd rt : RegisterId) (sa : BitVec 5) :
    IntegerRegisters.Statement (.sra rd rt sa) := by
  simp +contextual [IntegerRegisters.Statement, Instr.wellFormed, Machine.sources, Machine.destField]

theorem IntegerRegisters.dsll (rd rt : RegisterId) (sa : BitVec 5) :
    IntegerRegisters.Statement (.dsll rd rt sa) := by
  simp +contextual [IntegerRegisters.Statement, Instr.wellFormed, Machine.sources, Machine.destField]

theorem IntegerRegisters.dsrl (rd rt : RegisterId) (sa : BitVec 5) :
    IntegerRegisters.Statement (.dsrl rd rt sa) := by
  simp +contextual [IntegerRegisters.Statement, Instr.wellFormed, Machine.sources, Machine.destField]

theorem IntegerRegisters.dsra (rd rt : RegisterId) (sa : BitVec 5) :
    IntegerRegisters.Statement (.dsra rd rt sa) := by
  simp +contextual [IntegerRegisters.Statement, Instr.wellFormed, Machine.sources, Machine.destField]

theorem IntegerRegisters.dsll32 (rd rt : RegisterId) (sa : BitVec 5) :
    IntegerRegisters.Statement (.dsll32 rd rt sa) := by
  simp +contextual [IntegerRegisters.Statement, Instr.wellFormed, Machine.sources, Machine.destField]

theorem IntegerRegisters.dsrl32 (rd rt : RegisterId) (sa : BitVec 5) :
    IntegerRegisters.Statement (.dsrl32 rd rt sa) := by
  simp +contextual [IntegerRegisters.Statement, Instr.wellFormed, Machine.sources, Machine.destField]

theorem IntegerRegisters.dsra32 (rd rt : RegisterId) (sa : BitVec 5) :
    IntegerRegisters.Statement (.dsra32 rd rt sa) := by
  simp +contextual [IntegerRegisters.Statement, Instr.wellFormed, Machine.sources, Machine.destField]

theorem IntegerRegisters.sllv (rd rt rs : RegisterId) :
    IntegerRegisters.Statement (.sllv rd rt rs) := by
  simp +contextual [IntegerRegisters.Statement, Instr.wellFormed, Machine.sources, Machine.destField]

theorem IntegerRegisters.srlv (rd rt rs : RegisterId) :
    IntegerRegisters.Statement (.srlv rd rt rs) := by
  simp +contextual [IntegerRegisters.Statement, Instr.wellFormed, Machine.sources, Machine.destField]

theorem IntegerRegisters.srav (rd rt rs : RegisterId) :
    IntegerRegisters.Statement (.srav rd rt rs) := by
  simp +contextual [IntegerRegisters.Statement, Instr.wellFormed, Machine.sources, Machine.destField]

theorem IntegerRegisters.dsllv (rd rt rs : RegisterId) :
    IntegerRegisters.Statement (.dsllv rd rt rs) := by
  simp +contextual [IntegerRegisters.Statement, Instr.wellFormed, Machine.sources, Machine.destField]

theorem IntegerRegisters.dsrlv (rd rt rs : RegisterId) :
    IntegerRegisters.Statement (.dsrlv rd rt rs) := by
  simp +contextual [IntegerRegisters.Statement, Instr.wellFormed, Machine.sources, Machine.destField]

theorem IntegerRegisters.dsrav (rd rt rs : RegisterId) :
    IntegerRegisters.Statement (.dsrav rd rt rs) := by
  simp +contextual [IntegerRegisters.Statement, Instr.wellFormed, Machine.sources, Machine.destField]

theorem IntegerRegisters.lb (rt rs : RegisterId) (imm : BitVec 16) :
    IntegerRegisters.Statement (.lb rt rs imm) := by
  simp +contextual [IntegerRegisters.Statement, Instr.wellFormed, Machine.sources, Machine.destField]

theorem IntegerRegisters.lbu (rt rs : RegisterId) (imm : BitVec 16) :
    IntegerRegisters.Statement (.lbu rt rs imm) := by
  simp +contextual [IntegerRegisters.Statement, Instr.wellFormed, Machine.sources, Machine.destField]

theorem IntegerRegisters.lh (rt rs : RegisterId) (imm : BitVec 16) :
    IntegerRegisters.Statement (.lh rt rs imm) := by
  simp +contextual [IntegerRegisters.Statement, Instr.wellFormed, Machine.sources, Machine.destField]

theorem IntegerRegisters.lhu (rt rs : RegisterId) (imm : BitVec 16) :
    IntegerRegisters.Statement (.lhu rt rs imm) := by
  simp +contextual [IntegerRegisters.Statement, Instr.wellFormed, Machine.sources, Machine.destField]

theorem IntegerRegisters.lw (rt rs : RegisterId) (imm : BitVec 16) :
    IntegerRegisters.Statement (.lw rt rs imm) := by
  simp +contextual [IntegerRegisters.Statement, Instr.wellFormed, Machine.sources, Machine.destField]

theorem IntegerRegisters.lwu (rt rs : RegisterId) (imm : BitVec 16) :
    IntegerRegisters.Statement (.lwu rt rs imm) := by
  simp +contextual [IntegerRegisters.Statement, Instr.wellFormed, Machine.sources, Machine.destField]

theorem IntegerRegisters.ld (rt rs : RegisterId) (imm : BitVec 16) :
    IntegerRegisters.Statement (.ld rt rs imm) := by
  simp +contextual [IntegerRegisters.Statement, Instr.wellFormed, Machine.sources, Machine.destField]

theorem IntegerRegisters.sb (rt rs : RegisterId) (imm : BitVec 16) :
    IntegerRegisters.Statement (.sb rt rs imm) := by
  simp +contextual [IntegerRegisters.Statement, Instr.wellFormed, Machine.sources, Machine.destField]

theorem IntegerRegisters.sh (rt rs : RegisterId) (imm : BitVec 16) :
    IntegerRegisters.Statement (.sh rt rs imm) := by
  simp +contextual [IntegerRegisters.Statement, Instr.wellFormed, Machine.sources, Machine.destField]

theorem IntegerRegisters.sw (rt rs : RegisterId) (imm : BitVec 16) :
    IntegerRegisters.Statement (.sw rt rs imm) := by
  simp +contextual [IntegerRegisters.Statement, Instr.wellFormed, Machine.sources, Machine.destField]

theorem IntegerRegisters.sd (rt rs : RegisterId) (imm : BitVec 16) :
    IntegerRegisters.Statement (.sd rt rs imm) := by
  simp +contextual [IntegerRegisters.Statement, Instr.wellFormed, Machine.sources, Machine.destField]

theorem IntegerRegisters.beq (rs rt : RegisterId) (imm : BitVec 16) :
    IntegerRegisters.Statement (.beq rs rt imm) := by
  simp +contextual [IntegerRegisters.Statement, Instr.wellFormed, Machine.sources, Machine.destField]

theorem IntegerRegisters.bne (rs rt : RegisterId) (imm : BitVec 16) :
    IntegerRegisters.Statement (.bne rs rt imm) := by
  simp +contextual [IntegerRegisters.Statement, Instr.wellFormed, Machine.sources, Machine.destField]

theorem IntegerRegisters.j (target : BitVec 26) :
    IntegerRegisters.Statement (.j target) := by
  simp +contextual [IntegerRegisters.Statement, Instr.wellFormed, Machine.sources, Machine.destField]

theorem IntegerRegisters.jr (rs : RegisterId) :
    IntegerRegisters.Statement (.jr rs) := by
  simp +contextual [IntegerRegisters.Statement, Instr.wellFormed, Machine.sources, Machine.destField]

end Sys2Proof.Laws
end

