-- ==== Sys2Proof/Laws/Registers.lean ====
section
/-! SUPPORT. The laws of the register file (R25 to R29). -/

namespace Sys2Proof.Machine

/-- R25: `Integer(n)` and `Float(n)` are different registers, each with a place of its own. -/
theorem RegisterId.place_injective {q r : RegisterId} (h : RegisterId.place q = RegisterId.place r) : q = r := by
  cases q <;> cases r <;> simp only [RegisterId.place, Fin.mk.injEq] at h <;> first | omega | (congr 1; omega)

theorem RegisterId.place_inj {q r : RegisterId} : RegisterId.place q = RegisterId.place r ↔ q = r :=
  ⟨RegisterId.place_injective, fun h => h ▸ rfl⟩

theorem State.reg_congr {s t : State} (h : t.rf = s.rf) (q : RegisterId) : t.reg q = s.reg q := by
  simp [State.reg, h]

/-- R27: what the write port does, at every register. -/
theorem State.reg_setReg (s : State) (r q : RegisterId) (v : Word) :
    (s.setReg r v).reg q = if q = r then v else s.reg q := by
  simp only [State.reg, State.setReg_rf, Fin.getElem_fin, Vector.getElem_set]
  by_cases h : q = r
  · simp [h]
  · have h' : ¬ (RegisterId.place r).val = (RegisterId.place q).val := fun e =>
      h (RegisterId.place_injective (Fin.ext e.symm))
    simp [h, h']

@[simp] theorem State.reg_setReg_same (s : State) (r : RegisterId) (v : Word) : (s.setReg r v).reg r = v := by
  simp [State.reg_setReg]

theorem State.reg_setReg_ne (s : State) {r q : RegisterId} (v : Word) (h : q ≠ r) :
    (s.setReg r v).reg q = s.reg q := by
  simp [State.reg_setReg, h]

/-- R29: what `x[r] <- v` does, at every register. -/
theorem State.reg_writeX (s : State) (r q : RegisterId) (v : Word) :
    (s.writeX r v).reg q = if q = r ∧ Config.isZeroRegister s.cfg r = false then v else s.reg q := by
  unfold State.writeX Config.realDest
  cases h : Config.isZeroRegister s.cfg r
  · simp [State.reg_setReg]
  · simp

/-- The register file is one value per RegisterId: two that agree everywhere are equal. -/
theorem rf_ext {s t : State} (h : ∀ r, t.reg r = s.reg r) : t.rf = s.rf := by
  apply Vector.ext
  intro i hi
  by_cases h32 : i < 32
  · have := h (.integer ⟨i, h32⟩)
    simpa [State.reg, RegisterId.place] using this
  · have := h (.float ⟨i - 32, by omega⟩)
    have e : 32 + (i - 32) = i := by omega
    simpa [State.reg, RegisterId.place, e] using this

/-- R29: reading after `x[r] <- v`: the value, or 0 for a hardwired register. -/
theorem State.x_writeX (s : State) (r q : RegisterId) (v : Word) :
    (s.writeX r v).x q = if q = r ∧ Config.isZeroRegister s.cfg r = false then v else s.x q := by
  unfold State.x
  simp only [State.writeX_cfg, State.reg_writeX]
  by_cases hq : q = r
  · subst hq
    cases Config.isZeroRegister s.cfg q <;> simp
  · simp [hq]

end Sys2Proof.Machine
end

