-- ==== Sys2Proof/Laws/Pipeline.lean ====
section
/-! SUPPORT. The stages of a cycle: what each depends on, and what it hands on. -/

namespace Sys2Proof.Machine

/-! ### What an access depends on -/

/-- A load access depends on the parameters, the DCache and its busy flag. -/
theorem State.memRead_congr {s t : State} (hc : t.cfg = s.cfg) (hd : t.dc = s.dc) (hb :
    t.dcBusy = s.dcBusy) (a : Word) (n : Nat) (sg : Bool) :
    t.memRead a n sg = s.memRead a n sg := by
  simp [State.memRead, State.lookup, State.dhit, State.dline, hc, hd, hb]

/-- A store access depends on the parameters, the DCache and its busy flag. -/
theorem State.memWrite_congr {s t : State} (hc : t.cfg = s.cfg) (hd : t.dc = s.dc) (hb :
    t.dcBusy = s.dcBusy) (a : Word) (n : Nat) (v : Word) :
    t.memWrite a n v = s.memWrite a n v := by
  simp [State.memWrite, State.lookup, State.dhit, State.dline, hc, hd, hb]

/-- The Memory stage depends on the parameters, the DCache, its busy flag and `xm`. -/
theorem memoryStage_congr {s t : State} (hc : t.cfg = s.cfg) (hd : t.dc = s.dc) (hb :
    t.dcBusy = s.dcBusy) (hx : t.xm = s.xm) :
    memoryStage t = memoryStage s := by
  simp only [memoryStage, hx, hc, State.memRead_congr hc hd hb, State.memWrite_congr hc hd hb]

/-! ### A serviced access does not need the busy flag -/

theorem State.lookup_done_idle {s : State} {a : Word} {l : DLine} (h : s.lookup a = .done l) :
    ({ s with dcBusy := false } : State).lookup a = .done l := by
  unfold State.lookup at *
  split at h
  · cases h
  · simpa [State.dhit, State.dline] using h

theorem State.memRead_idle {s : State} {a : Word} {n : Nat} {sg : Bool} {v : Word} (h :
    s.memRead a n sg = .ok (.done v)) :
    ({ s with dcBusy := false } : State).memRead a n sg = .ok (.done v) := by
  obtain ⟨m, hm, hw, ⟨r, -, h2⟩ | ⟨l, hl, h2⟩⟩ := State.memRead_ok h
  · cases h2
  · cases h2
    simp [State.memRead, hm, hw, State.lookup_done_idle hl]

theorem State.memWrite_idle {s : State} {a : Word} {n : Nat} {x : Word} {v : StoreEffect} (h :
    s.memWrite a n x = .ok (.done v)) :
    ({ s with dcBusy := false } : State).memWrite a n x = .ok (.done v) := by
  obtain ⟨m, hm, ⟨hw, r, -, h2⟩ | ⟨hw, l, hl, h2⟩ | ⟨hw, h2⟩⟩ := State.memWrite_ok h
  · cases h2
  · cases h2
    simp [State.memWrite, hm, hw, State.lookup_done_idle hl]
  · cases h2
    simp [State.memWrite, hm, hw]

/-- R274: a Memory stage that requests no stall gives the same when the DCache is not busy. -/
theorem memoryStage_idle {s : State} {m : MemoryResult} (h : memoryStage s = .ok m) (hs : m.stall = none) :
    memoryStage { s with dcBusy := false } = .ok m := by
  have hc : ({ s with dcBusy := false } : State).cfg = s.cfg := rfl
  have hr : ∀ a n sg v, s.memRead a n sg = .ok (.done v) → ({ s with dcBusy :=
      false } : State).memRead a n sg = .ok (.done v) := fun _ _ _ _ h => State.memRead_idle h
  have hw : ∀ a n x v, s.memWrite a n x = .ok (.done v) → ({ s with dcBusy :=
      false } : State).memWrite a n x = .ok (.done v) := fun _ _ _ _ h => State.memWrite_idle h
  have hxx : ({ s with dcBusy := false } : State).xm = s.xm := rfl
  generalize ({ s with dcBusy := false } : State) = u at *
  rcases memoryStage_ok h with ⟨hx, rfl⟩ | ⟨r, hx, ⟨why, -, rfl⟩ | ⟨n, sg, v, ha, hv, rfl⟩ | ⟨n, e, ha, he,
      rfl⟩ | ⟨ha, ht, rfl⟩ | ⟨ha, ht, rfl⟩⟩
  · simp [memoryStage, hxx, hx]
  · cases hs
  · simp [memoryStage, hxx, hx, ha, hr _ _ _ _ hv, hc]
  · simp [memoryStage, hxx, hx, ha, hw _ _ _ _ he]
  · simp [memoryStage, hxx, hx, ha, ht]
  · simp [memoryStage, hxx, hx, ha, ht, hc]

/-! ### What a stage hands on -/

/-- R274, R290: the two stalls the Memory stage can request. -/
theorem memoryStage_stall {s : State} {m : MemoryResult} (h : memoryStage s = .ok m) {r} (hr :
    m.stall = some r) : r = .dataCacheBusy ∨ r = .dataCacheMiss := by
  unfold memoryStage at h
  have lk : ∀ a r, s.lookup a = .stall r → r = .dataCacheBusy ∨ r = .dataCacheMiss := by
    intro a r h
    rcases State.lookup_cases s a with ⟨-, h'⟩ | ⟨-, -, h'⟩ | ⟨-, -, h'⟩ <;> rw [h'] at h <;> cases h <;> simp
  split at h
  · cases h; cases hr
  · split at h
    · split at h
      · cases h
      · cases h; cases hr
        rename_i hh
        obtain ⟨m, hm, hw, ⟨r, hl, h2⟩ | ⟨l, hl, h2⟩⟩ := State.memRead_ok hh
        · cases h2; exact lk _ _ hl
        · cases h2
      · cases h; cases hr
    · split at h
      · cases h
      · cases h; cases hr
        rename_i hh
        obtain ⟨m, hm, ⟨hw, r, hl, h2⟩ | ⟨hw, l, hl, h2⟩ | ⟨hw, h2⟩⟩ := State.memWrite_ok hh
        · cases h2; exact lk _ _ hl
        · cases h2
        · cases h2
      · cases h; cases hr
    · split at h <;> cases h <;> cases hr

/-- R274: the record that leaves Memory is of the instruction in it. -/
theorem memoryStage_next {s : State} {m : MemoryResult} (h : memoryStage s = .ok m) : ∀ q, m.next = some q →
    ∃ r, s.xm = some r ∧ q.pc = r.pc ∧ q.ins = r.ins ∧ (q.dest = none ∨ q.dest = Config.dest s.cfg q.ins) := by
  rcases memoryStage_ok h with ⟨hx, rfl⟩ | ⟨r, hx, ⟨why, -, rfl⟩ | ⟨n, sg, v, ha, hv, rfl⟩ | ⟨n, e, ha, he,
      rfl⟩ | ⟨ha, ht, rfl⟩ | ⟨ha, ht, rfl⟩⟩
  · intro c hc; cases hc
  · intro c hc; cases hc
  · intro q hc; cases hc; exact ⟨r, hx, rfl, rfl, .inr rfl⟩
  · intro q hc; cases hc; exact ⟨r, hx, rfl, rfl, .inl rfl⟩
  · intro q hc; cases hc; exact ⟨r, hx, rfl, rfl, .inl rfl⟩
  · intro q hc; cases hc; exact ⟨r, hx, rfl, rfl, .inr rfl⟩

theorem writebackStage_congr {s t : State} (h : t.mw = s.mw) : writebackStage t = writebackStage s :=
    by simp [writebackStage, h]

/-- R280: the record that leaves Execute. -/
theorem executeStage_next (s : State) :
    (executeStage s).next =
      s.dx.map fun r => { pc := r.pc, ins := r.ins, result := executeResult r, sdata := r.sdata } := by
  unfold executeStage; cases s.dx <;> rfl

/-- R281: the record that leaves Decode is of the word in it; only a transfer is marked as taken. -/
theorem decode_next {s : State} {st : Stages} (he : evaluateStages s = .ok st) : ∀ q, st.decode.next = some q →
    ∃ f, s.fd = some f ∧ q.pc = f.pc ∧ decode f.word = .ok q.ins ∧ (q.taken = true → isTransfer q.ins = true) := by
  obtain ⟨hw, hx, hm, hd, hf⟩ := evaluateStages_ok he
  intro q hq
  cases hms : st.memory.stall with
  | some r => simp [decodeUnlessStalled, hms] at hd; rw [← hd] at hq; cases hq
  | none =>
    simp only [decodeUnlessStalled, hms] at hd
    rcases decodeStage_ok hd with ⟨h1, h2⟩ | ⟨f, i, h1, h2, -, ⟨-, h3⟩ | ⟨-, h3⟩⟩
    · rw [h2] at hq; cases hq
    · rw [h3] at hq; cases hq
    · rw [h3] at hq; simp only [issue, Option.some.injEq] at hq; subst hq
      refine ⟨f, h1, rfl, h2, ?_⟩
      intro ht
      simp only at ht ⊢
      cases i <;> first | rfl | cases ht

/-! ### Statuses and commits -/

/-- R290: in an `Ok` cycle nothing stalls, nothing interlocks, and the fetch hits. -/
theorem Stages.status_ok {st : Stages} (h : st.status = .ok) : st.memory.stall = none ∧
    st.decode.interlock = false ∧ ∃ q, st.fetch = some q := by
  rcases Stages.status_cases st with ⟨r, h1, h2⟩ | ⟨h1, h2, h3⟩ | ⟨h1, h2, h3, h4⟩ | ⟨h1, h2, h3, -⟩
  · rw [h] at h2; cases h2
  · rw [h] at h3; cases h3
  · rw [h] at h4; cases h4
  · exact ⟨h1, h2, h3⟩

/-- R290: a `LoadInterlock` cycle is one in which the Memory stage requests nothing. -/
theorem Stages.status_loadInterlock {s : State} {st : Stages} (hm : memoryStage s = .ok st.memory) (h :
    st.status = .stall .loadInterlock) : st.memory.stall = none ∧ st.decode.interlock = true := by
  rcases Stages.status_cases st with ⟨r, h1, h2⟩ | ⟨h1, h2, h3⟩ | ⟨h1, h2, h3, h4⟩ | ⟨h1, h2, h3, h4⟩
  · rw [h] at h2; cases h2
    rcases memoryStage_stall hm h1 with h | h <;> cases h
  · exact ⟨h1, h2⟩
  · rw [h] at h4; cases h4
  · rw [h] at h4; cases h4

/-- R291: the status of the committed state is that of the stages. -/
@[simp] theorem State.commitCycle_status (s : State) (st : Stages) : (s.commitCycle st).status = st.status := by
  rcases State.commitCycle_cases s st with ⟨h, hh⟩ | ⟨h, hh⟩ | ⟨r, -, h, hh⟩ <;> (rw [hh, h] <;> rfl)

/-- R291: what a commit never changes. -/
theorem State.commitCycle_kept (s : State) (g : Stages) :
    (s.commitCycle g).cfg = s.cfg ∧ (s.commitCycle g).reading = s.reading ∧ (s.commitCycle g).inputs = s.inputs ∧
      (s.commitCycle g).ic = s.ic ∧ (s.commitCycle g).wasReset = s.wasReset := by
  rcases State.commitCycle_cases s g with ⟨-, h⟩ | ⟨-, h⟩ | ⟨r, -, -, h⟩ <;> rw [h] <;>
    simp [State.commitBackEnd, State.commitFrontEnd]

/-- What no instruction changes. -/
theorem exec_kept {i : Instr} {s t : State} (h : exec i s = .next t) :
    t.cfg = s.cfg ∧ t.reading = s.reading ∧ t.inputs = s.inputs ∧ t.ic = s.ic ∧ t.wasReset = s.wasReset ∧
      t.fd = s.fd ∧ t.dx = s.dx ∧ t.xm = s.xm ∧ t.mw = s.mw := by
  rcases exec_next h with ⟨r, v, -, rfl⟩ | ⟨n, v, e, -, -, rfl⟩ | ⟨-, -, rfl⟩ | ⟨-, r, rfl⟩ <;> simp

/-- R296: everything a cycle of the cycle reading without reset has been, in terms of the state before it. -/
theorem step_cycle_next {s t : State} (hr : s.reading = .cycle) (h : step s = .next t) (hn :
    s.nextInputs.reset = false) :
   s.wasReset = true ∧ ∃ st, evaluateStages s.popInputs = .ok st ∧
       t = (s.popInputs.commitCycle st).applyFills s.nextInputs ∧
    st.execute = executeStage s ∧ memoryStage s = .ok st.memory ∧ st.write = writebackStage s ∧
        decodeUnlessStalled s (executeStage s) st.memory (writebackStage s) = .ok st.decode ∧
            fetchStage s = .ok st.fetch := by
  rw [step_cycle hr] at h
  rcases cycleStep_next h with ⟨h, -⟩ | ⟨-, hw, st, he, rfl⟩
  · rw [hn] at h; cases h
  · obtain ⟨a, b, c, d, e⟩ := evaluateStages_ok he
    exact ⟨hw, st, he, rfl, b, c, a, d, e⟩

/-- R293: everything a reset cycle of the cycle reading has been. -/
theorem step_cycle_reset {s t : State} (hr : s.reading = .cycle) (h : step s = .next t) (hn :
    s.nextInputs.reset = true) : t = s.popInputs.takeReset.applyFills s.nextInputs := by
  rw [step_cycle hr] at h
  rcases cycleStep_next h with ⟨-, h⟩ | ⟨hw, -, st, he, rfl⟩
  · exact h
  · rw [hn] at hw; cases hw

/-! ### Committed stores -/

/-- R76: the fill of an edge leaves every other line as the step made it. -/
theorem State.dline_applyFills {s u : State} (hu : Memory.wf DLine.absent u.dc) {k : Nat} (h : Safety.NotFilled s k) :
    (u.applyFills s.nextInputs).dline k = u.dline k := by
  simp only [State.dline, State.applyFills_dc]
  cases hf : s.nextInputs.dfill with
  | none => rfl
  | some f => exact Memory.get_set_ne hu _ (Ne.symm (h f hf))

/-- A valid line is listed. -/
theorem State.dline_mem (s : State) (k) (h : (s.dline k).valid = true) : (k, s.dline k) ∈ s.dc := by
  apply Memory.mem_of_get_ne
  intro e
  have : (s.dline k) = DLine.absent := e
  rw [this] at h; cases h

/-- R81: a store commits to a valid line only. -/
theorem State.memWrite_valid {s : State} {a n v e} (h : s.memWrite a n v = .ok (.done e)) : ∀ c,
    e.commit = some c → (s.dline c.index).valid = true := by
  obtain ⟨m, hm, ⟨hw, r, hl, h2⟩ | ⟨hw, l, hl, h2⟩ | ⟨hw, h2⟩⟩ := State.memWrite_ok h
  · cases h2
  · cases h2
    intro c hc; cases hc
    rcases State.lookup_cases s a with ⟨-, h'⟩ | ⟨-, -, h'⟩ | ⟨-, hd, h'⟩ <;> rw [h'] at hl <;> cases hl
    simp [State.dhit] at hd
    exact hd.1
  · cases h2; intro c hc; cases hc

theorem memoryStage_store_valid {s : State} {m : MemoryResult} (h : memoryStage s = .ok m) : ∀ c,
    m.store.commit = some c → (s.dline c.index).valid = true := by
  rcases memoryStage_ok h with ⟨hx, rfl⟩ | ⟨r, hx, ⟨why, -, rfl⟩ | ⟨n, sg, v, ha, hv, rfl⟩ | ⟨n, e, ha, he,
      rfl⟩ | ⟨ha, ht, rfl⟩ | ⟨ha, ht, rfl⟩⟩
  · intro c hc; cases hc
  · intro c hc; cases hc
  · intro c hc; cases hc
  · exact State.memWrite_valid he
  · intro c hc; cases hc
  · intro c hc; cases hc

end Sys2Proof.Machine
end

