-- ==== Sys2Proof/Laws/Program.lean ====
section
/-! SUPPORT. Completing the instructions in flight: `completeMemory` and `flush` of Safety.lean. -/

namespace Sys2Proof.Safety

open Sys2Proof.Machine

/-- The parameters, registers and DCache of two states agree: all that completing an instruction depends on. -/
structure Same (s t : State) : Prop where
  cfg : t.cfg = s.cfg
  rf : t.rf = s.rf
  dc : t.dc = s.dc

theorem Same.symm {s t : State} (h : Same s t) : Same t s := ⟨h.cfg.symm, h.rf.symm, h.dc.symm⟩
theorem Same.trans {s t u : State} (h : Same s t) (k : Same t u) : Same s u :=
    ⟨k.cfg.trans h.cfg, k.rf.trans h.rf, k.dc.trans h.dc⟩

/-- A state after a Memory stage that completed, its register written too. -/
def after (s : State) (m : MemoryResult) : State :=
    (s.applyStore m.store).writeBack (writebackStage { s with mw := m.next })

/-- Everything completing an instruction in Memory can do. -/
theorem completeMemory_some {s u : State} {r : ExecuteMemory} : completeMemory s r = some u ↔
   ∃ m, memoryStage { s with xm := some r, dcBusy := false } = .ok m ∧ m.stall = none ∧ u = after s m := by
  unfold completeMemory
  cases memoryStage { s with xm := some r, dcBusy := false } with
  | error e => simp
  | ok m => by_cases h : m.stall = none <;> simp [h, after, eq_comm]

theorem writeBack_rf_congr {s t : State} (h : t.rf = s.rf) (w) : (t.writeBack w).rf = (s.writeBack w).rf := by
  rcases w with _ | ⟨r, v⟩ <;> simp [h]

theorem applyStore_dc_congr {s t : State} (h : t.dc = s.dc) (e : StoreEffect) :
    (t.applyStore e).dc = (s.applyStore e).dc := by
  rcases e with ⟨_ | c, x⟩ <;> simp [State.applyStore, State.commitStore, h, State.dline]

theorem after_same {s t : State} (h : Same s t) (m) : Same (after s m) (after t m) := by
  refine ⟨?_, ?_, ?_⟩
  · simp [after, h.cfg]
  · unfold after
    rw [writebackStage_congr (s := { s with mw := m.next }) (t := { t with mw := m.next }) rfl]
    exact writeBack_rf_congr (by simp [h.rf]) _
  · unfold after
    simp only [State.writeBack_dc]; exact applyStore_dc_congr h.dc _

theorem completeMemory_same {s t u : State} (h : Same s t) {r} (hs : completeMemory s r = some u) :
    ∃ v, completeMemory t r = some v ∧ Same u v := by
  obtain ⟨m, h1, h2, rfl⟩ := completeMemory_some.mp hs
  refine ⟨after t m, completeMemory_some.mpr ⟨m, ?_, h2, rfl⟩, after_same h m⟩
  rw [← h1]; exact memoryStage_congr h.cfg h.dc rfl rfl

/-- Completing everything in flight, given what the Memory stage of the cycle says. -/
theorem flush_eq {s : State} {m : MemoryResult} (h : memoryStage s = .ok m) (hs : m.stall = none) :
   ∃ s2, Same (after (s.writeBack (writebackStage s)) m) s2 ∧
       flush s = (match s.dx with | none => some s2 | some r => completeMemory s2 (executed r)) := by
  cases hx : s.xm with
  | none =>
    refine ⟨s.writeBack (writebackStage s), ?_, ?_⟩
    · have : m = MemoryResult.empty := by simp [memoryStage, hx] at h; exact h.symm
      subst this
      exact ⟨by simp [after], by simp [after, MemoryResult.empty, writebackStage], by simp [after,
          MemoryResult.empty, StoreEffect.none, State.applyStore]⟩
    · cases hd : s.dx <;> simp [flush, hx, hd]
  | some r =>
    have : completeMemory (s.writeBack (writebackStage s)) r = some (after (s.writeBack (writebackStage s)) m) := by
      refine completeMemory_some.mpr ⟨m, ?_, hs, rfl⟩
      rw [← memoryStage_idle h hs]
      exact memoryStage_congr (by simp) (by simp) rfl (by simp [hx])
    refine ⟨_, ⟨rfl, rfl, rfl⟩, ?_⟩
    cases hd : s.dx <;> simp [flush, hx, hd, this]

theorem x_congr {s t : State} (h : Same s t) (q) : t.x q = s.x q := by
  unfold State.x; rw [h.cfg]; congr 1; exact State.reg_congr h.rf q

theorem after_reg {s : State} {m : MemoryResult} (h : memoryStage s = .ok m) (hs : m.stall = none) (u : State) (q) :
   (after u m).reg q = (offers m.fwd q).getD (u.reg q) := by
  have hreg : ∀ e : StoreEffect, (u.applyStore e).reg q = u.reg q := fun e => State.reg_congr (by simp) q
  have key : ∀ (e : StoreEffect) (d : Option RegisterId) (v : Word),
     ((u.applyStore e).writeBack (match d with | none => none | some d => some (d,
         v))).reg q = (offers (d.map fun d => (d, v)) q).getD (u.reg q) := by
    intro e d v
    cases d with
    | none => simpa [offers] using hreg e
    | some d =>
      simp only [State.writeBack_some, State.reg_setReg, hreg, offers, Option.map_some]
      by_cases hq : q = d
      · simp [hq]
      · simp [hq, Ne.symm hq]
  rcases memoryStage_ok h with ⟨hx, rfl⟩ | ⟨r, hx, ⟨why, -, rfl⟩ | ⟨n, sg, v, ha, hv, rfl⟩ | ⟨n, e, ha, he,
      rfl⟩ | ⟨ha, ht, rfl⟩ | ⟨ha, ht, rfl⟩⟩
  · exact key _ none 0
  · cases hs
  · exact key _ _ _
  · exact key _ none 0
  · exact key _ none 0
  · exact key _ _ _

theorem flush_congr {s t : State} (h : Same s t) (hx : t.xm = s.xm) (hd : t.dx = s.dx) (hm :
    t.mw = s.mw) {g} (hg : flush s = some g) :
   ∃ g', flush t = some g' ∧ Same g g' := by
  have h1 : Same (s.writeBack (writebackStage s)) (t.writeBack (writebackStage t)) := by
    rw [writebackStage_congr hm]
    exact ⟨by simp [h.cfg], writeBack_rf_congr h.rf _, by simp [h.dc]⟩
  unfold flush at *
  rw [hx, hd]
  generalize s.writeBack (writebackStage s) = s1 at *
  generalize t.writeBack (writebackStage t) = t1 at *
  cases hxx : s.xm with
  | none =>
    rw [hxx] at hg
    cases hdd : s.dx with
    | none => rw [hdd] at hg; cases hg; exact ⟨_, rfl, h1⟩
    | some d => rw [hdd] at hg; exact completeMemory_same h1 hg
  | some r =>
    rw [hxx] at hg
    simp only at hg ⊢
    cases h2 : completeMemory s1 r with
    | none => rw [h2] at hg; cases hg
    | some s2 =>
      obtain ⟨t2, ht2, hs⟩ := completeMemory_same h1 h2
      rw [h2] at hg; rw [ht2]
      simp only at *
      cases hdd : s.dx with
      | none => rw [hdd] at hg; cases hg; exact ⟨_, rfl, hs⟩
      | some d => rw [hdd] at hg; exact completeMemory_same hs hg

/-- R76: an undisturbed cycle has no fill. -/
theorem undisturbed_fills {s : State} (h : Undisturbed s) (u : State) : u.applyFills s.nextInputs = u := by
  obtain ⟨-, h1, h2⟩ := h
  simp [State.applyFills, h1, h2, fillICache, fillDCache]

end Sys2Proof.Safety
end

