-- ==== Sys2Proof/Tests/Slice0.lean ====
section
/-! SUPPORT. Tests. Expected values are the spec's: the examples of 42, 43 and 44, the tables and traces of
95_test_vectors.md. The second half gives, for every statement with hypotheses, concrete states that meet them. -/

namespace Sys2Proof.Tests

open Sys2Proof.Machine Sys2Proof.Safety

/-! ### Helpers -/

/-- `Integer(n)` and `Float(n)`. -/
def x (n : Fin 32) : RegisterId := .integer n
def f (n : Fin 32) : RegisterId := .float n

/-- A state with some `Integer` registers set. -/
def regs (l : List (Fin 32 × Word)) (s : State) : State := l.foldl (fun s p => s.setReg (x p.1) p.2) s

/-- A state with the ICache line of address `a` present. -/
def code (a data : Word) (s : State) : State :=
  { s with ic := fillICache s.ic (some ⟨Config.iindex s.cfg a, Config.itag s.cfg a, data⟩) }

/-- A state with the DCache line of address `a` present and clean. -/
def line (a data : Word) (s : State) : State :=
  { s with dc := fillDCache s.dc (some ⟨Config.dindex s.cfg a, Config.dtag s.cfg a, data⟩) }

/-- The two lines of table B4. -/
def lines : State := line 0x48 0x8899AABBCCDDEEFF (line 0x40 0x0080C3D4E5F60718 State.reset)

/-- The instruction-level reading of a state, at an address. -/
def at_ (pc : Word) (s : State) : State := { s with pc := pc, npc := pc + 4, reading := .instruction }

/-- The outcome of one step, if it goes on, satisfies `p`. -/
def goes (o : Host.Outcome State Fault Refusal) (p : State → Prop) [DecidablePred p] : Bool :=
  match o with
  | .next t => decide (p t)
  | .fault _ => false
  | .refused _ => false

/-- The state a step gives (the state after reset where it stops). -/
def after (o : Host.Outcome State Fault Refusal) : State :=
  match o with
  | .next t => t
  | .fault _ => State.reset
  | .refused _ => State.reset

/-- The outcome of one step is this stop. -/
def faults (o : Host.Outcome State Fault Refusal) (r : Fault) : Bool :=
  match o with
  | .next _ => false
  | .fault q => q == r
  | .refused _ => false

/-- The outcome of one step is this refusal. -/
def refuses (o : Host.Outcome State Fault Refusal) (r : Refusal) : Bool :=
  match o with
  | .next _ => false
  | .fault _ => false
  | .refused q => q == r

theorem exists_next {o : Host.Outcome State Fault Refusal} {p : State → Prop} [DecidablePred p]
    (h : goes o p = true) : ∃ t, o = .next t ∧ p t := by
  cases o with
  | next t => exact ⟨t, rfl, of_decide_eq_true h⟩
  | fault r => cases h
  | refused r => cases h

theorem next_after {o : Host.Outcome State Fault Refusal} (h : goes o (fun _ => True) = true) : o = .next (after o) := by
  cases o with
  | next t => rfl
  | fault r => cases h
  | refused r => cases h

/-- A stage function answers, and what it answers satisfies `p`. -/
def answers {α : Type} (e : Except Stop α) (p : α → Prop) [DecidablePred p] : Bool :=
  match e with
  | .ok a => decide (p a)
  | .error _ => false

theorem exists_ok {α : Type} {e : Except Stop α} {p : α → Prop} [DecidablePred p] (h : answers e p = true) :
    ∃ a, e = .ok a ∧ p a := by
  cases e with
  | ok a => exact ⟨a, rfl, of_decide_eq_true h⟩
  | error r => cases h

theorem exists_some {α : Type} {e : Option α} (h : e.isSome = true) : ∃ a, e = some a := by
  cases e with
  | none => cases h
  | some a => exact ⟨a, rfl⟩

/-! ### WellFormed: an encoding names `Integer` registers only -/

theorem test_wellFormed_accepts : (Instr.or (x 3) (x 1) (x 31)).wellFormed = true := by decide

theorem test_wellFormed_refuses_one : Instr.wellFormed (.lui (f 1) 0) = false ∧ Instr.wellFormed (.jr (f 1)) = false := by
  decide

theorem test_wellFormed_refuses_two : (
  [.ori (x 1) (f 2) 0, .daddiu (x 1) (f 2) 0, .slti (x 1) (f 2) 0, .sltiu (x 1) (f 2) 0, .lb (x 1) (f 2) 0,
   .lbu (x 1) (f 2) 0, .lh (x 1) (f 2) 0, .lhu (x 1) (f 2) 0, .lw (x 1) (f 2) 0, .lwu (x 1) (f 2) 0,
   .ld (x 1) (f 2) 0, .sb (x 1) (f 2) 0, .sh (x 1) (f 2) 0, .sw (x 1) (f 2) 0, .sd (x 1) (f 2) 0,
   .beq (x 1) (f 2) 0, .bne (x 1) (f 2) 0, .sll (x 1) (f 2) 0, .srl (x 1) (f 2) 0, .sra (x 1) (f 2) 0,
   .dsll (x 1) (f 2) 0, .dsrl (x 1) (f 2) 0, .dsra (x 1) (f 2) 0, .dsll32 (x 1) (f 2) 0, .dsrl32 (x 1) (f 2) 0,
   .dsra32 (x 1) (f 2) 0, .ori (f 1) (x 2) 0, .daddiu (f 1) (x 2) 0, .slti (f 1) (x 2) 0, .sltiu (f 1) (x 2) 0,
   .lb (f 1) (x 2) 0, .lbu (f 1) (x 2) 0, .lh (f 1) (x 2) 0, .lhu (f 1) (x 2) 0, .lw (f 1) (x 2) 0,
   .lwu (f 1) (x 2) 0, .ld (f 1) (x 2) 0, .sb (f 1) (x 2) 0, .sh (f 1) (x 2) 0, .sw (f 1) (x 2) 0,
   .sd (f 1) (x 2) 0, .beq (f 1) (x 2) 0, .bne (f 1) (x 2) 0, .sll (f 1) (x 2) 0, .srl (f 1) (x 2) 0,
   .sra (f 1) (x 2) 0, .dsll (f 1) (x 2) 0, .dsrl (f 1) (x 2) 0, .dsra (f 1) (x 2) 0, .dsll32 (f 1) (x 2) 0,
   .dsrl32 (f 1) (x 2) 0, .dsra32 (f 1) (x 2) 0] : List Instr).all
    (fun i => !i.wellFormed) = true := by decide

theorem test_wellFormed_refuses_three : (
  [.or (f 1) (x 2) (x 3), .slt (f 1) (x 2) (x 3), .sltu (f 1) (x 2) (x 3), .daddu (f 1) (x 2) (x 3),
   .dsubu (f 1) (x 2) (x 3), .sllv (f 1) (x 2) (x 3), .srlv (f 1) (x 2) (x 3), .srav (f 1) (x 2) (x 3),
   .dsllv (f 1) (x 2) (x 3), .dsrlv (f 1) (x 2) (x 3), .dsrav (f 1) (x 2) (x 3), .or (x 1) (f 2) (x 3),
   .slt (x 1) (f 2) (x 3), .sltu (x 1) (f 2) (x 3), .daddu (x 1) (f 2) (x 3), .dsubu (x 1) (f 2) (x 3),
   .sllv (x 1) (f 2) (x 3), .srlv (x 1) (f 2) (x 3), .srav (x 1) (f 2) (x 3), .dsllv (x 1) (f 2) (x 3),
   .dsrlv (x 1) (f 2) (x 3), .dsrav (x 1) (f 2) (x 3), .or (x 1) (x 2) (f 3), .slt (x 1) (x 2) (f 3),
   .sltu (x 1) (x 2) (f 3), .daddu (x 1) (x 2) (f 3), .dsubu (x 1) (x 2) (f 3), .sllv (x 1) (x 2) (f 3),
   .srlv (x 1) (x 2) (f 3), .srav (x 1) (x 2) (f 3), .dsllv (x 1) (x 2) (f 3), .dsrlv (x 1) (x 2) (f 3),
   .dsrav (x 1) (x 2) (f 3)] : List Instr).all
    (fun i => !i.wellFormed) = true := by decide

/-! ### Decoding: words written out from R112, R118 (most of them the spec's own examples), every constructor -/

/-- Rows of 30_encoding.md section 3 by name, and fields of a word by their bits: `sra r31, r1, 31`. -/
theorem test_row_and_fields :
    ReadFrom 0x0001FFC3 (.sra (x 31) (x 1) 31) ∧ Instr.mnemonic (.sra (x 31) (x 1) 31) = "SRA" ∧
    (opcodeTable.filter fun r => r.admits 0x0001FFC3).map (fun r => r.mnemonic) = ["SRA"] := by
  refine ⟨⟨⟨1, rfl, by decide⟩, ⟨31, rfl, by decide⟩, by decide⟩, by decide, by decide⟩

/-- R114: a register field names no `Float` register. -/
theorem test_field_names_integers : ¬ReadFrom 0x0001FFC3 (.sra (f 31) (x 1) 31) := by
  rintro ⟨-, ⟨n, h, -⟩, -⟩
  cases h

theorem test_decode_immediate :
    decode 0x3C01DEAD = .ok (.lui (x 1) 0xDEAD) ∧ decode 0x3421BEEF = .ok (.ori (x 1) (x 1) 0xBEEF) ∧
    decode 0x6422FFFF = .ok (.daddiu (x 2) (x 1) 0xFFFF) ∧ decode 0x28230005 = .ok (.slti (x 3) (x 1) 5) ∧
    decode 0x2C23FFFF = .ok (.sltiu (x 3) (x 1) 0xFFFF) := by decide

theorem test_decode_register :
    decode 0x00221825 = .ok (.or (x 3) (x 1) (x 2)) ∧ decode 0x0022182A = .ok (.slt (x 3) (x 1) (x 2)) ∧
    decode 0x0022182B = .ok (.sltu (x 3) (x 1) (x 2)) ∧ decode 0x0022182D = .ok (.daddu (x 3) (x 1) (x 2)) ∧
    decode 0x0022182F = .ok (.dsubu (x 3) (x 1) (x 2)) := by decide

theorem test_decode_shift :
    decode 0x00021900 = .ok (.sll (x 3) (x 2) 4) ∧ decode 0x00021902 = .ok (.srl (x 3) (x 2) 4) ∧
    decode 0x00021903 = .ok (.sra (x 3) (x 2) 4) ∧ decode 0x00021938 = .ok (.dsll (x 3) (x 2) 4) ∧
    decode 0x0002193A = .ok (.dsrl (x 3) (x 2) 4) ∧ decode 0x0002193B = .ok (.dsra (x 3) (x 2) 4) ∧
    decode 0x0002183C = .ok (.dsll32 (x 3) (x 2) 0) ∧ decode 0x0002183E = .ok (.dsrl32 (x 3) (x 2) 0) ∧
    decode 0x0002193F = .ok (.dsra32 (x 3) (x 2) 4) := by decide

theorem test_decode_shift_by_register :
    decode 0x00221804 = .ok (.sllv (x 3) (x 2) (x 1)) ∧ decode 0x00221806 = .ok (.srlv (x 3) (x 2) (x 1)) ∧
    decode 0x00221807 = .ok (.srav (x 3) (x 2) (x 1)) ∧ decode 0x00221814 = .ok (.dsllv (x 3) (x 2) (x 1)) ∧
    decode 0x00221816 = .ok (.dsrlv (x 3) (x 2) (x 1)) ∧ decode 0x00221817 = .ok (.dsrav (x 3) (x 2) (x 1)) := by decide

theorem test_decode_load :
    decode 0x80430041 = .ok (.lb (x 3) (x 2) 0x41) ∧ decode 0x90430041 = .ok (.lbu (x 3) (x 2) 0x41) ∧
    decode 0x84430042 = .ok (.lh (x 3) (x 2) 0x42) ∧ decode 0x94430042 = .ok (.lhu (x 3) (x 2) 0x42) ∧
    decode 0x8C430044 = .ok (.lw (x 3) (x 2) 0x44) ∧ decode 0x9C430044 = .ok (.lwu (x 3) (x 2) 0x44) ∧
    decode 0xDC43FFF8 = .ok (.ld (x 3) (x 2) 0xFFF8) := by decide

theorem test_decode_store :
    decode 0xA0410050 = .ok (.sb (x 1) (x 2) 0x50) ∧ decode 0xA4410052 = .ok (.sh (x 1) (x 2) 0x52) ∧
    decode 0xAC410044 = .ok (.sw (x 1) (x 2) 0x44) ∧ decode 0xFC410048 = .ok (.sd (x 1) (x 2) 0x48) ∧
    decode 0xFFFFFFFF = .ok (.sd (x 31) (x 31) 0xFFFF) := by decide

theorem test_decode_transfer :
    decode 0x10220003 = .ok (.beq (x 1) (x 2) 3) ∧ decode 0x1422FFFE = .ok (.bne (x 1) (x 2) 0xFFFE) ∧
    decode 0x0BF00040 = .ok (.j 0x3F00040) ∧ decode 0x01E00008 = .ok (.jr (x 15)) := by decide

/-- R126, R131: `nop`, and program P4's `b` from 0x...10 to 0x...00. -/
theorem test_pseudo_instructions :
    decode 0x00000000 = .ok nop ∧ encode (branchAlways (branchField 0xFFFFFFFFBFC00010 0xFFFFFFFFBFC00000)) = 0x1000FFFB ∧
    encode (.j (jumpField 0x1FC00100)) = 0x0BF00040 ∧ li32 (x 1) 0xDEADBEEF = (.lui (x 1) 0xDEAD, .ori (x 1) (x 1) 0xBEEF) := by
  decide

/-- Table B7: the refused words. -/
def refusedWords : List InsWord :=
  [0x00221820, 0x00221821, 0x00221824, 0x0000000C, 0x0000000D, 0x0000000F, 0x00220018, 0x00001810, 0x0C000000,
   0x01E0F809, 0x24230001, 0x30230001, 0x40036000, 0x42000018, 0xBC000000, 0xC0430000, 0xC4430000, 0x88430000,
   0x04210003, 0x18200003, 0x50220003, 0x3C21DEAD, 0x00221965, 0x01E10008, 0x00221900, 0x00221844]

theorem test_decode_refuses : refusedWords.all (fun w => decide (decode w = .error (.unadmitted w))) = true := by decide

/-- R110, R66: bytes at the head of a list, the rest left over, and too few bytes. -/
theorem test_decodeBytes :
    decodeBytes [0xAC, 0x41, 0x00, 0x44, 0x99] = .ok (.sw (x 1) (x 2) 0x44, [0x99]) ∧
    decodeBytes [0xAC, 0x41, 0x00] = .error .truncated := by decide

/-! ### ALU instructions, table B2 -/

/-- The word, run as the next instruction with these registers, leaves `v` in register `d`. -/
def writes (w : Nat) (l : List (Fin 32 × Word)) (d : Fin 32) (v : Word) : Bool :=
  goes (step ((regs l State.reset).withFetchWord 32 w)) fun t => t.reg (x d) = v ∧ t.pc = 0xFFFFFFFFBFC00004

theorem test_lui_sign_extends :
    writes 0x3C01DEAD [] 1 0xFFFFFFFFDEAD0000 ∧
    writes 0x3C038000 [] 3 0xFFFFFFFF80000000 := by decide

theorem test_ori_zero_extends :
    writes 0x3421BEEF [(1, 0xFFFFFFFFDEAD0000)] 1 0xFFFFFFFFDEADBEEF ∧
    writes 0x3423FFFF [(1, 0x0)] 3 0xFFFF := by decide

theorem test_daddiu_sign_extends_and_wraps :
    writes 0x6423FFFF [(1, 0x0)] 3 0xFFFFFFFFFFFFFFFF ∧
    writes 0x64210001 [(1, 0xFFFFFFFFFFFFFFFF)] 1 0x0 := by decide

theorem test_slti_is_signed :
    writes 0x28230000 [(1, 0x8000000000000000)] 3 0x1 ∧
    writes 0x2823FFFF [(1, 0x0)] 3 0x0 := by decide

theorem test_sltiu_compares_with_sign_extended :
    writes 0x2C23FFFF [(1, 0x5)] 3 0x1 ∧
    writes 0x2C23FFFF [(1, 0xFFFFFFFFFFFFFFFF)] 3 0x0 := by decide

theorem test_or :
    writes 0x00221825 [(1, 0xF0), (2, 0xF)] 3 0xFF ∧
    writes 0x00211825 [(1, 0xFFFFFFFF80000001)] 3 0xFFFFFFFF80000001 := by decide

theorem test_slt_is_signed :
    writes 0x0022182A [(1, 0xFFFFFFFFFFFFFFFF), (2, 0x0)] 3 0x1 ∧
    writes 0x0022182A [(1, 0x0), (2, 0xFFFFFFFFFFFFFFFF)] 3 0x0 := by decide

theorem test_sltu_is_unsigned :
    writes 0x0022182B [(1, 0xFFFFFFFFFFFFFFFF), (2, 0x0)] 3 0x0 ∧
    writes 0x0022182B [(1, 0x0), (2, 0xFFFFFFFFFFFFFFFF)] 3 0x1 := by decide

theorem test_daddu_wraps :
    writes 0x0022182D [(1, 0xFFFFFFFFFFFFFFFF), (2, 0x1)] 3 0x0 ∧
    writes 0x0021082D [(1, 0x4000000000000001)] 1 0x8000000000000002 := by decide

theorem test_dsubu_order_and_wrap :
    writes 0x0022182F [(1, 0x0), (2, 0x1)] 3 0xFFFFFFFFFFFFFFFF ∧
    writes 0x0022182F [(1, 0x8000000000000000), (2, 0x1)] 3 0x7FFFFFFFFFFFFFFF := by decide

theorem test_sll_sign_extends :
    writes 0x00021800 [(2, 0x1234567880000001)] 3 0xFFFFFFFF80000001 ∧
    writes 0x00021FC0 [(2, 0x1)] 3 0xFFFFFFFF80000000 := by decide

theorem test_srl_low_word :
    writes 0x00021802 [(2, 0xFFFFFFFF80000000)] 3 0xFFFFFFFF80000000 ∧
    writes 0x00021FC2 [(2, 0xFFFFFFFF80000000)] 3 0x1 := by decide

theorem test_sra_low_word :
    writes 0x00021903 [(2, 0x80000000)] 3 0xFFFFFFFFF8000000 ∧
    writes 0x00021FC3 [(2, 0x7FFFFFFF)] 3 0x0 := by decide

theorem test_sllv_five_bits :
    writes 0x00221804 [(1, 0x3F), (2, 0x1)] 3 0xFFFFFFFF80000000 ∧
    writes 0x00221804 [(1, 0x20), (2, 0x1)] 3 0x1 := by decide

theorem test_srlv_five_bits :
    writes 0x00221806 [(1, 0x21), (2, 0x80000000)] 3 0x40000000 := by decide

theorem test_srav_five_bits :
    writes 0x00221807 [(1, 0x24), (2, 0x80000000)] 3 0xFFFFFFFFF8000000 := by decide

theorem test_dsll :
    writes 0x00021938 [(2, 0xF000000000000001)] 3 0x10 ∧
    writes 0x00021FF8 [(2, 0x1)] 3 0x80000000 := by decide

theorem test_dsrl :
    writes 0x0002193A [(2, 0xF000000000000001)] 3 0xF00000000000000 := by decide

theorem test_dsra :
    writes 0x0002193B [(2, 0xF000000000000001)] 3 0xFF00000000000000 := by decide

theorem test_dsllv_six_bits :
    writes 0x00221814 [(1, 0x3F), (2, 0x1)] 3 0x8000000000000000 ∧
    writes 0x00221814 [(1, 0x40), (2, 0x1)] 3 0x1 := by decide

theorem test_dsrlv_six_bits :
    writes 0x00221816 [(1, 0x7F), (2, 0x8000000000000000)] 3 0x1 := by decide

theorem test_dsrav_six_bits :
    writes 0x00221817 [(1, 0x44), (2, 0x8000000000000000)] 3 0xF800000000000000 := by decide

theorem test_dsll32 :
    writes 0x0002183C [(2, 0xDEADBEEF)] 3 0xDEADBEEF00000000 ∧
    writes 0x00021FFC [(2, 0x1)] 3 0x8000000000000000 := by decide

theorem test_dsrl32 :
    writes 0x0002183E [(2, 0xDEADBEEF00000000)] 3 0xDEADBEEF ∧
    writes 0x00021FFE [(2, 0x8000000000000000)] 3 0x1 := by decide

theorem test_dsra32 :
    writes 0x0002193F [(2, 0x8000000000000000)] 3 0xFFFFFFFFF8000000 ∧
    writes 0x00021FFF [(2, 0x8000000000000000)] 3 0xFFFFFFFFFFFFFFFF := by decide

/-! ### Loads, table B4 -/

/-- The load, with base `b` in `r2`, leaves `v` in register `d`. -/
def loads (w : Nat) (b : Word) (d : Fin 32) (v : Word) : Bool :=
  goes (step ((regs [(2, b)] lines).withFetchWord 32 w)) fun t => t.reg (x d) = v ∧ t.dc = lines.dc

theorem test_lb :
    loads 0x80430041 0x0 3 0xFFFFFFFFFFFFFF80 ∧
    loads 0x80430007 0x40 3 0x18 := by decide

theorem test_lbu :
    loads 0x90430041 0x0 3 0x80 := by decide

theorem test_lh :
    loads 0x84430042 0x0 3 0xFFFFFFFFFFFFC3D4 ∧
    loads 0x8443FFFE 0x48 3 0x718 := by decide

theorem test_lhu :
    loads 0x94430042 0x0 3 0xC3D4 := by decide

theorem test_lw :
    loads 0x8C430044 0x0 3 0xFFFFFFFFE5F60718 ∧
    loads 0x8C430040 0x0 3 0x80C3D4 := by decide

theorem test_lwu :
    loads 0x9C430044 0x0 3 0xE5F60718 ∧
    loads 0x9C430048 0x0 3 0x8899AABB := by decide

theorem test_ld :
    loads 0xDC43FFF8 0x50 3 0x8899AABBCCDDEEFF ∧
    loads 0xDC420040 0x0 2 0x80C3D4E5F60718 := by decide

/-! ### Stores, table B5 -/

/-- The store of `v` (in `r1`) into a line that held 0x1111111122222222: the record and the new line. -/
def stores (w : Nat) (v row : Word) (size align : Nat) (d new : Word) : Bool :=
  goes (step ((line row 0x1111111122222222 (regs [(1, v)] State.reset)).withFetchWord 32 w)) fun t =>
    t.dcwrite = some { rowAddress := row, mask := { size := size, align := align }, data := d } ∧
    t.dline (Config.dindex t.cfg row) = { tag := 0, valid := true, dirty := true, data := new } ∧ t.dcBusy = true

theorem test_sb :
    stores 0xA0410053 0xA7 0x50 0 3 0xA700000000 0x111111A722222222 ∧
    stores 0xA0410057 0xFFFFFFFFFFFFFF80 0x50 0 7 0x80 0x1111111122222280 := by decide

theorem test_sh :
    stores 0xA4410052 0x1234ABCD 0x50 1 2 0xABCD00000000 0x1111ABCD22222222 ∧
    stores 0xA4410056 0xABCD 0x50 1 6 0xABCD 0x111111112222ABCD := by decide

theorem test_sw :
    stores 0xAC410044 0xFFFFFFFFDEADBEEF 0x40 3 4 0xDEADBEEF 0x11111111DEADBEEF ∧
    stores 0xAC410040 0xDEADBEEF 0x40 3 0 0xDEADBEEF00000000 0xDEADBEEF22222222 := by decide

theorem test_sd :
    stores 0xFC410048 0x123456789ABCDEF 0x48 7 0 0x123456789ABCDEF 0x123456789ABCDEF := by decide

/-- Table B5's closing lines and R84: external stores. -/
theorem test_external_stores :
    goes (step ((regs [(1, 0x1234), (6, 0xFFFFFFFFA0000000)] State.reset).withFetchWord 32 0xA0C10013)) (fun t =>
      t.ext = some { address := 0xFFFFFFFFA0000013, data := 0x0000003400000000, size := 0, write := true }) ∧
    goes (step ((regs [(1, 0x1234), (6, 0xFFFFFFFFA0000000)] State.reset).withFetchWord 32 0xFCC10018)) (fun t =>
      t.ext = some { address := 0xFFFFFFFFA0000018, data := 0x1234, size := 7, write := true } ∧ t.dcwrite = none) := by
  decide

/-! ### Control transfers, table B6 -/

/-- The transfer at `pc`: its delay slot at `pc + 4`, then `next`. -/
def goesTo (w : Nat) (pc : Word) (l : List (Fin 32 × Word)) (next : Word) : Bool :=
  goes (step ((at_ pc (regs l State.reset)).withFetchWord 32 w)) fun t => t.pc = pc + 4 ∧ t.npc = next

theorem test_beq_taken_and_not :
    goesTo 0x10220003 0xFFFFFFFFBFC00000 [(1, 0x5), (2, 0x5)] 0xFFFFFFFFBFC00010 ∧
    goesTo 0x10220003 0xFFFFFFFFBFC00000 [(1, 0x5), (2, 0x6)] 0xFFFFFFFFBFC00008 := by decide

theorem test_beq_farthest_backwards :
    goesTo 0x10228000 0xFFFFFFFFBFC00000 [] 0xFFFFFFFFBFBE0004 := by decide

theorem test_bne_taken_and_not :
    goesTo 0x1422FFFE 0xFFFFFFFFBFC00008 [(1, 0x1), (2, 0x1)] 0xFFFFFFFFBFC00010 ∧
    goesTo 0x14220002 0xFFFFFFFFBFC00000 [(1, 0x100000000), (2, 0x0)] 0xFFFFFFFFBFC0000C := by decide

theorem test_j_in_the_region_of_its_delay_slot :
    goesTo 0x0BF00040 0xFFFFFFFFBFC00010 [] 0xFFFFFFFFBFC00100 ∧
    goesTo 0x08000000 0xFFFFFFC [] 0x10000000 := by decide

theorem test_jr :
    goesTo 0x01E00008 0xFFFFFFFFBFC00000 [(15, 0x1FC00100)] 0x1FC00100 := by decide

/-! ### Stops -/

theorem test_unadmitted_stops : refuses (step (State.reset.withFetchWord 32 0x0000000C)) (.unadmittedEncoding 0x0000000C) := by
  decide

theorem test_misaligned_load_stops : faults (step (State.reset.withFetchWord 32 0x84030041)) .misalignedAccess := by decide

theorem test_external_load_stops :
    refuses (step ((regs [(6, 0xFFFFFFFFA0000000)] State.reset).withFetchWord 32 0x8CC30000)) .loadOutsideCachedWindow := by
  decide

/-! ### The clock cycle -/

/-- A pipeline at `pc = 0x...BFC00010`, its line present and holding two nops; nothing in flight. -/
def front : State := { code 0xFFFFFFFFBFC00010 0 State.reset with pc := 0xFFFFFFFFBFC00010 }

/-- `daddiu r1, r4, 1` with r4 = 5, `ld r2, 0x40(r0)` of a line that holds 7, and r4 being written 5; `daddu r3, r1, r2`
in Decode: every bypass source at once. -/
def full : State :=
  { line 0x40 7 front with
    fd := some { pc := 0xFFFFFFFFBFC0000C, word := 0x0022182D }
    dx := some { pc := 0xFFFFFFFFBFC00008, ins := .daddiu (x 1) (x 4) 1, a := 5, b := 1, sdata := 0, taken := false }
    xm := some { pc := 0xFFFFFFFFBFC00004, ins := .ld (x 2) (x 0) 0x40, result := 0x40, sdata := 0 }
    mw := some { pc := 0xFFFFFFFFBFC00000, ins := .ori (x 4) (x 0) 5, dest := some (x 4), value := 5 } }

/-- Program P5, cycle 3: a load in Execute, a reader of its register in Decode, and the next fetch present. -/
def locked : State :=
  { line 0x40 0x0080C3D4E5F60718 front with
    fd := some { pc := 0xFFFFFFFFBFC00008, word := 0xA403004A }
    dx := some { pc := 0xFFFFFFFFBFC00004, ins := .lw (x 3) (x 0) 0x44, a := 0, b := 0x44, sdata := 0, taken := false }
    xm := some { pc := 0xFFFFFFFFBFC00000, ins := .lui (x 0) 0, result := 0, sdata := 0 }
    mw := none }

/-- Scenario S2, cycle 4: a load that misses in Memory, with an interlock behind it. -/
def missing : State :=
  { front with
    fd := some { pc := 0xFFFFFFFFBFC0000C, word := 0x0042182D }
    dx := some { pc := 0xFFFFFFFFBFC00008, ins := .ld (x 2) (x 0) 0x40, a := 0, b := 0x40, sdata := 0, taken := false }
    xm := some { pc := 0xFFFFFFFFBFC00004, ins := .ld (x 1) (x 0) 0x100, result := 0x100, sdata := 0 }
    mw := some { pc := 0xFFFFFFFFBFC00000, ins := .lui (x 0) 0, dest := some (x 0), value := 0 } }

/-- Scenario S3, cycle 5: the same in a busy cycle. -/
def busy : State := { missing with dcBusy := true }

/-- A store in Memory: `sd r1, 0x40(r0)`, to a line that holds 7. -/
def storing : State :=
  { line 0x40 7 front with
    xm := some { pc := 0xFFFFFFFFBFC00000, ins := .sd (x 1) (x 0) 0x40, result := 0x40, sdata := 0xFF } }

/-- Program P7's kind of store: `sw r1, 4(r6)` with r6 = 0xFFFFFFFFA0000000 in Memory. -/
def leaving : State :=
  { front with
    xm := some { pc := 0xFFFFFFFFBFC00000, ins := .sw (x 1) (x 6) 4, result := 0xFFFFFFFFA0000004, sdata := 0xDEADBEEF } }

/-- A fetch that misses. -/
def unfetched : State := { front with pc := 0xFFFFFFFFBFC00020 }

/-- A state with one record of inputs. -/
def given (i : Inputs) (s : State) : State := { s with inputs := [i] }

/-- A fill of the DCache line of address 0x100, and one of the ICache line of 0x...BFC00020. -/
def dfillOf (d : Word) : Fill := { index := 32, tag := 0, data := d }
def ifillOf (d : Word) : Fill := { index := 4, tag := 0xFFFFFFFFBFC00, data := d }
def fills : Inputs := { reset := false, ifill := some (ifillOf 0x3C01DEAD), dfill := some (dfillOf 0x99) }
def resets : Inputs := { reset := true, ifill := none, dfill := none }

/-- R283: the youngest producer wins; R294: the write of Writeback. -/
theorem test_bypass_and_write :
    goes (step full) (fun t =>
      t.status = .ok ∧ t.dx.map (fun r => (r.a, r.b)) = some (6, 7) ∧ t.reg (x 4) = 5 ∧ t.pc = 0xFFFFFFFFBFC00014) := by
  decide

/-- P5, cycle 3. -/
theorem test_load_interlock :
    goes (step locked) (fun t =>
      t.status = .stall .loadInterlock ∧ t.pc = locked.pc ∧ t.fd = locked.fd ∧ t.dx = none ∧
      t.xm.map (fun r => r.result) = some 0x44) := by decide

/-- P5, cycle 4: the store takes r3 from the Memory stage. -/
theorem test_after_load_interlock :
    goes (step (after (step locked))) (fun t =>
      t.status = .ok ∧ t.dx.map (fun r => r.sdata) = some 0xFFFFFFFFE5F60718 ∧ t.reg (x 0) = 0) := by decide

/-- S2, cycle 4, and S3, cycle 5: the Memory stage outranks the interlock, and busy comes before miss. -/
theorem test_miss_and_busy :
    goes (step missing) (fun t => t.status = .stall .dataCacheMiss ∧ t.xm = missing.xm ∧ t.rf = missing.rf) ∧
    goes (step busy) (fun t => t.status = .stall .dataCacheBusy ∧ t.dcBusy = false) := by decide

/-- S4, cycle 5: the fill of the same edge wins, and the busy flag is the store's. -/
theorem test_fill_beats_store :
    goes (step (given { reset := false, ifill := none, dfill := some { index := 8, tag := 0, data := 0x5555 } } storing))
      (fun t => t.dline 8 = { tag := 0, valid := true, dirty := false, data := 0x5555 } ∧ t.dcBusy = true ∧
        t.dcwrite = some { rowAddress := 0x40, mask := { size := 7, align := 0 }, data := 0xFF }) := by decide

/-- S5, cycle 3: reset in the cycle of the store: no store, `pc` at the reset vector, registers kept. -/
theorem test_reset_discards :
    goes (step (given resets (regs [(1, 0xAB)] storing))) (fun t =>
      t.pc = 0xFFFFFFFFBFC00000 ∧ t.dcwrite = none ∧ t.xm = none ∧ t.reg (x 1) = 0xAB ∧
      t.status = .exceptionWB .reset ∧ (t.dline 8).data = 7) := by decide

/-- S6, rows 1, 4 and 5: a transfer in a delay slot, a load outside the cached window, a misaligned `pc`. -/
def inSlot : State :=
  { front with
    fd := some { pc := 0xFFFFFFFFBFC00004, word := 0x10000002 }
    dx := some { pc := 0xFFFFFFFFBFC00000, ins := .beq (x 0) (x 0) 2, a := 0, b := 0, sdata := 0, taken := true } }

theorem test_pipeline_stops :
    refuses (step inSlot) .controlTransferInDelaySlot ∧
    refuses (step { front with
      xm := some { pc := 0, ins := .lw (x 3) (x 6) 0, result := 0xFFFFFFFFA0000000, sdata := 0 } })
      .loadOutsideCachedWindow ∧
    faults (step { front with pc := 0x102 }) .misalignedPc := by decide

/-- R84, R87: one request, and the instruction leaves Memory. -/
theorem test_external_store_leaves :
    goes (step leaving) (fun t =>
      t.ext = some { address := 0xFFFFFFFFA0000004, data := 0xDEADBEEF, size := 3, write := true } ∧
      t.dc = leaving.dc ∧ t.xm = none) := by decide

/-! ### The parameter R0_HARDWIRED_ZERO (R29, D17) -/

/-- A state whose `Integer(0)` is hardwired to zero. -/
def hardwired : State := { State.reset with cfg := { Config.reference with r0HardwiredZero := true } }

theorem test_hardwired_zero :
    goes (step (hardwired.withFetchWord 32 0x3C001FC0)) (fun t => t.x (x 0) = 0 ∧ t.reg (x 0) = 0) ∧
    goes (step (State.reset.withFetchWord 32 0x3C001FC0)) (fun t => t.x (x 0) = 0x1FC00000) := by decide

/-! ### Witnesses: states that meet the hypotheses of the statements -/

/-- Encoding: a well-formed instruction, a word that decodes. -/
theorem witness_DecodeEncodeRoundTrip : Instr.wellFormed (.dsra32 (x 31) (x 0) 31) = true := by decide

theorem witness_EncodeDecodeRoundTrip : ∃ i, decode 0xFC1FFFFF = .ok i := ⟨.sd (x 31) (x 0) 0xFFFF, by decide⟩

/-- A word of no row, in Decode of a pipeline. -/
theorem witness_UnadmittedWordsAreRefused_cycle :
    let s : State := { front with fd := some { pc := 0xFFFFFFFFBFC0000C, word := 0x0000000C } }
    s.wasReset = true ∧ s.nextInputs.reset = false ∧ (∀ r ∈ opcodeTable, r.admits 0x0000000C = false) ∧
    s.reading = .cycle ∧ s.fd = some { pc := 0xFFFFFFFFBFC0000C, word := 0x0000000C } ∧
    ∃ m, memoryStage s = .ok m ∧ m.stall = none := by
  refine ⟨by decide, by decide, by decide, by decide, by decide, ?_⟩
  exact exists_ok (p := fun m : MemoryResult => m.stall = none) (by decide)

/-- The same word at `pc` of the instruction-level reading. -/
def atSyscall : State := at_ 0xFFFFFFFFBFC00000 (code 0xFFFFFFFFBFC00000 0x0000000C00000000 State.reset)

theorem witness_UnadmittedWordsAreRefused_instruction :
    atSyscall.wasReset = true ∧ atSyscall.nextInputs.reset = false ∧ atSyscall.reading = .instruction ∧
    atSyscall.pc.toNat % 4 = 0 ∧ CodeBytes atSyscall atSyscall.pc (wordBytes 0x0000000C) := by
  refine ⟨by decide, by decide, by decide, by decide, ?_⟩
  unfold CodeBytes
  decide

/-- The legal masks at the ends of their ranges, for the statements about the mask unit. -/
theorem witness_legal_masks :
    MemMask.legal { size := 0, align := 0 } = true ∧ MemMask.legal { size := 0, align := 7 } = true ∧
    MemMask.legal { size := 7, align := 0 } = true ∧ MemMask.legal { size := 3, align := 4 } = true ∧
    MemMask.legal { size := 4, align := 4 } = false := by decide

/-- A shift amount of 0 that is not written 0. -/
theorem witness_DoublewordShiftModes : (0xFFC0 : Word).toNat % 64 = 0 := by decide

theorem witness_ReadPortSeesValueBeforeWrite :
    full.reading = .cycle ∧ full.nextInputs.reset = false ∧ writebackStage full = some (x 4, 5) ∧
    (∃ t, step full = .next t ∧ t.status = .ok) ∧
    (∃ u m : Option (RegisterId × Word), offers u (x 4) = none ∧ offers m (x 4) = none) ∧
    Config.isZeroRegister full.cfg (x 4) = false := by
  refine ⟨by decide, by decide, by decide, ?_, ⟨some (x 1, 6), some (x 2, 7), by decide, by decide⟩, by decide⟩
  exact exists_next (p := fun t => t.status = .ok) (by decide)

/-- The write of Writeback in a `LoadInterlock` cycle. -/
theorem witness_ReadPortSeesValueBeforeWrite_interlock :
    let s : State := { locked with mw := full.mw }
    writebackStage s = some (x 4, 5) ∧ ∃ t, step s = .next t ∧ t.status = .stall .loadInterlock := by
  refine ⟨by decide, ?_⟩
  exact exists_next (p := fun t => t.status = .stall .loadInterlock) (by decide)

theorem witness_HardwiredZeroRegister :
    hardwired.cfg.r0HardwiredZero = true ∧ State.reset.cfg.r0HardwiredZero = false ∧
    destField (.lui (x 0) 0) = some (.integer 0) := by decide

/-- The instructions in flight of `full` name `Integer` registers. -/
theorem full_inFlight : InFlightOk full := by
  refine ⟨?_, ?_, ?_⟩ <;> intro r h <;> cases h <;> decide

theorem witness_FloatRegistersNeverChange :
    InFlightOk full ∧ (∃ t, step full = .next t) ∧ (∃ i, decode 0x0022182D = .ok i ∧ destField i = some (x 3)) ∧
    32 ≤ 32 :=
  ⟨full_inFlight, ⟨_, next_after (by decide)⟩, ⟨.daddu (x 3) (x 1) (x 2), by decide, by decide⟩, by decide⟩

theorem witness_AddressSplitIsInjective : 3 + 61 ≤ 64 ∧ 3 + 9 ≤ 64 ∧ rowOf 0x40 = rowOf 0x47 ∧ rowOf 0x40 ≠ rowOf 0x48 := by
  decide

theorem witness_FetchedWordIsBigEndian :
    front.pc.toNat % 4 = 0 ∧ front.fetch = .ok (some 0) ∧ atSyscall.fetch = .ok (some 0x0000000C) := by decide

/-- Fills that replace a dirty line and a code line, in a cycle that goes on, a frozen one and a reset cycle. -/
def dirty : State := { missing with dc := [(32, { tag := 5, valid := true, dirty := true, data := 1 })] }

theorem witness_FillInstallsLine :
    Memory.wf ILine.absent (given fills dirty).ic ∧ Memory.wf DLine.absent (given fills dirty).dc ∧
    (given fills dirty).nextInputs.ifill = some (ifillOf 0x3C01DEAD) ∧
    (given fills dirty).nextInputs.dfill = some (dfillOf 0x99) ∧
    (∃ t, step (given fills dirty) = .next t ∧ t.status = .stall .dataCacheMiss) ∧
    (∃ t, step (given fills full) = .next t ∧ t.status = .ok) ∧
    ∃ t, step (given { fills with reset := true } dirty) = .next t ∧ t.status = .exceptionWB .reset := by
  refine ⟨by decide, by decide, by decide, by decide, ?_, ?_, ?_⟩
  · exact exists_next (p := fun t => t.status = .stall .dataCacheMiss) (by decide)
  · exact exists_next (p := fun t => t.status = .ok) (by decide)
  · exact exists_next (p := fun t => t.status = .exceptionWB .reset) (by decide)

theorem witness_StepsLeaveCodeAndParameters : ∃ t, step (given fills full) = .next t := ⟨_, next_after (by decide)⟩

/-- Both clauses of the lines a fill does not touch: index 2 of the ICache and index 8 of the DCache are valid. -/
theorem witness_ValidLinesStayValid :
    Memory.wf ILine.absent (given fills full).ic ∧ Memory.wf DLine.absent (given fills full).dc ∧
    (∃ t, step (given fills full) = .next t) ∧ ((given fills full).iline 2).valid = true ∧
    ((given fills full).dline 8).valid = true ∧ (dirty.dline 32).dirty = true ∧ dirty.nextInputs.dfill = none := by
  refine ⟨by decide, by decide, ⟨_, next_after (by decide)⟩, by decide, by decide, by decide, by decide⟩

/-- Loads of each width at the last place of the line 0x40 that it can have. -/
theorem witness_LoadResults :
    effectiveAddress (lines.x (x 2)) 0x47 = 0x47 ∧ effectiveAddress (lines.x (x 2)) 0x46 = 0x46 ∧
    effectiveAddress (lines.x (x 2)) 0x44 = 0x44 ∧ effectiveAddress (lines.x (x 2)) 0x40 = 0x40 ∧
    Config.inCachedWindow lines.cfg 0x47 = true ∧ Config.inCachedWindow lines.cfg 0x40 = true ∧
    lines.dcBusy = false := by decide

theorem witness_LoadResults_bytes :
    DataBytes lines 0x47 [0x18] ∧ DataBytes lines 0x46 [0x07, 0x18] ∧ DataBytes lines 0x44 [0xE5, 0xF6, 0x07, 0x18] ∧
    DataBytes lines 0x40 [0x00, 0x80, 0xC3, 0xD4, 0xE5, 0xF6, 0x07, 0x18] := by
  unfold DataBytes
  decide

/-- Misaligned for every width above 1, outside the window, busy, absent. -/
theorem witness_LoadsWaitOrStop :
    (effectiveAddress (lines.x (x 2)) 0x41).toNat % 2 ≠ 0 ∧
    Config.inCachedWindow lines.cfg 0xFFFFFFFFA0000000 = false ∧ Config.inCachedWindow lines.cfg 0x40 = true ∧
    ({ lines with dcBusy := true } : State).dcBusy = true ∧ lines.dcBusy = false ∧ lines.dataByte 0x100 = none := by decide

theorem witness_CachedStoreResults :
    Memory.wf DLine.absent lines.dc ∧ Config.inCachedWindow lines.cfg 0x40 = true ∧ lines.dcBusy = false ∧
    lines.dataByte 0x40 ≠ none ∧ lines.dataByte 0x47 ≠ none ∧ (0x40 : Word).toNat % 8 = 0 := by decide

/-- Outside the cached window: the first and the last byte of the region, through a base register. -/
theorem witness_ExternalStoreResults :
    let s := regs [(6, 0xFFFFFFFFA0000000), (7, 0xFFFFFFFFC0000000)] State.reset
    Config.inCachedWindow s.cfg (effectiveAddress (s.x (x 6)) 0) = false ∧
    Config.inCachedWindow s.cfg (effectiveAddress (s.x (x 7)) 0xFFFF) = false := by decide

theorem witness_StoresWaitOrStop :
    (effectiveAddress (lines.x (x 2)) 0x43).toNat % 2 ≠ 0 ∧ Config.inCachedWindow lines.cfg 0x43 = true ∧
    busy.dcBusy = true ∧ lines.dataByte 0x103 = none := by decide

/-- Outside a delay slot, with both outcomes of a compare. -/
theorem witness_BranchResults :
    let s := regs [(1, 5), (2, 5), (3, 6)] lines
    s.afterTaken = false ∧ s.x (x 1) = s.x (x 2) ∧ s.x (x 1) ≠ s.x (x 3) := by decide

theorem witness_JumpResults : (at_ 0xFFFFFFFFBFC00010 lines).afterTaken = false := by decide

theorem witness_AssemblerForms :
    (hardwired.cfg.r0HardwiredZero = true ∧ (lines.reg (.integer 0)) = ((lines.reg (.integer 0)).setWidth 32).signExtend 64) ∧
    (at_ 0xFFFFFFFFBFC00010 lines).afterTaken = false ∧ (0xFFFFFFFFBFC00100 : Word).toNat % 4 = 0 ∧
    (at_ 0xFFFFFFFFBFC00010 lines).pc.toNat % 4 = 0 ∧
    (-2 ^ 17 ≤ ((0xFFFFFFFFBFC00100 : Word) - (0xFFFFFFFFBFC00010 + 4)).toInt ∧
      ((0xFFFFFFFFBFC00100 : Word) - (0xFFFFFFFFBFC00010 + 4)).toInt < 2 ^ 17) ∧
    jumpReaches 0xFFFFFFFFBFC00010 0xFFFFFFFFBFC00100 = true := by decide

theorem witness_TransfersRefusedInDelaySlot :
    (isTransfer (.bne (x 1) (x 2) 0) = true ∧ ({ lines with afterTaken := true } : State).afterTaken = true) ∧
    inSlot.reading = .cycle ∧ inSlot.wasReset = true ∧ inSlot.nextInputs.reset = false ∧
    inSlot.fd = some { pc := 0xFFFFFFFFBFC00004, word := 0x10000002 } ∧
    decode 0x10000002 = .ok (.beq (x 0) (x 0) 2) ∧ isTransfer (.beq (x 0) (x 0) 2) = true ∧
    (∃ r, inSlot.dx = some r ∧ r.taken = true) ∧ ∃ m, memoryStage inSlot = .ok m ∧ m.stall = none := by
  refine ⟨by decide, by decide, by decide, by decide, by decide, by decide, by decide, ⟨_, rfl, by decide⟩, ?_⟩
  exact exists_ok (p := fun m : MemoryResult => m.stall = none) (by decide)

theorem witness_OnlyJumpRegisterMisaligns :
    (at_ 0xFFFFFFFFBFC00000 lines).pc.toNat % 4 = 0 ∧ (at_ 0xFFFFFFFFBFC00000 lines).npc.toNat % 4 = 0 ∧
    (∀ rs, Instr.j 0 ≠ .jr rs) ∧ ∃ t, exec (.j 0) (at_ 0xFFFFFFFFBFC00000 lines) = .next t := by
  refine ⟨by decide, by decide, ?_, _, next_after (by decide)⟩
  intro rs h
  cases h

/-- An instruction at `pc`, and none. -/
theorem witness_InstructionStepRunsDecoded :
    let s := at_ 0xFFFFFFFFBFC00000 (code 0xFFFFFFFFBFC00000 0x3C01DEAD00000000 State.reset)
    s.reading = .instruction ∧ s.wasReset = true ∧ s.nextInputs.reset = false ∧ s.pc.toNat % 4 = 0 ∧
    CodeBytes s s.pc [0x3C, 0x01, 0xDE, 0xAD] ∧
    decodeBytes [0x3C, 0x01, 0xDE, 0xAD] = .ok (.lui (x 1) 0xDEAD, []) ∧
    (at_ 0xFFFFFFFFBFC00020 s).codeByte 0xFFFFFFFFBFC00020 = none := by
  refine ⟨by decide, by decide, by decide, by decide, ?_, by decide, by decide⟩
  unfold CodeBytes
  decide

theorem witness_PlacedInstructionRuns :
    Instr.wellFormed (.lui (x 1) 0xDEAD) = true ∧ full.wasReset = true ∧ full.nextInputs.reset = false ∧
    full.pc.toNat % 4 = 0 ∧ Memory.wf ILine.absent full.ic := by decide

/-- A reset cycle from a state with everything in flight, and then a second one. -/
theorem witness_ResetCycle :
    (given resets full).nextInputs.reset = true ∧
    ∃ t, step { full with inputs := [resets, resets] } = .next t ∧
      (t.nextInputs.reset = true ∧ t.nextInputs.ifill = none ∧ t.nextInputs.dfill = none) := by
  refine ⟨by decide, ?_⟩
  exact exists_next
    (p := fun t => t.nextInputs.reset = true ∧ t.nextInputs.ifill = none ∧ t.nextInputs.dfill = none) (by decide)

theorem witness_StepNeedsReset :
    let s : State := { full with wasReset := false }
    s.wasReset = false ∧ s.nextInputs.reset = false ∧ (given resets s).nextInputs.reset = true := by decide

/-- S6, last row: a `jr` went to 0x102, its delay slot is in Decode; and the same `pc` behind a load that misses, which
waits (R287). -/
def misaligned : State :=
  { front with
    pc := 0x102
    fd := some { pc := 0xFFFFFFFFBFC00004, word := 0 }
    dx := some { pc := 0xFFFFFFFFBFC00000, ins := .jr (x 1), a := 0x102, b := 0, sdata := 0, taken := true } }
def misalignedWaiting : State := { missing with pc := 0x102 }

theorem witness_MisalignedPcStops (s : State) (h : s = misaligned ∨ s = misalignedWaiting) :
    s.pc.toNat % 4 ≠ 0 ∧ s.nextInputs.reset = false ∧ s.wasReset = true ∧ s.reading = .cycle ∧
    (∃ m, memoryStage s = .ok m ∧ ∃ d, decodeUnlessStalled s (executeStage s) m (writebackStage s) = .ok d) ∧
    (at_ 0x102 s).reading = .instruction ∧ (at_ 0x102 s).pc.toNat % 4 ≠ 0 := by
  rcases h with rfl | rfl <;>
    exact ⟨by decide, by decide, by decide, by decide, ⟨_, rfl, _, rfl⟩, by decide, by decide⟩

theorem test_misaligned_pc_behind_slot_and_wait :
    faults (step misaligned) .misalignedPc ∧ faults (step misalignedWaiting) .misalignedPc := by decide

/-- Every status of R290, each from a cycle that goes on. -/
theorem witness_StatusPriority :
    (∃ t, step (given resets full) = .next t ∧ t.status = .exceptionWB .reset) ∧
    (∃ t, step busy = .next t ∧ t.status = .stall .dataCacheBusy) ∧
    (∃ t, step missing = .next t ∧ t.status = .stall .dataCacheMiss) ∧
    (∃ t, step locked = .next t ∧ t.status = .stall .loadInterlock) ∧
    (∃ t, step unfetched = .next t ∧ t.status = .stall .instructionCacheBusy) ∧
    ∃ t, step full = .next t ∧ t.status = .ok := by
  refine ⟨?_, ?_, ?_, ?_, ?_, ?_⟩
  · exact exists_next (p := fun t => t.status = .exceptionWB .reset) (by decide)
  · exact exists_next (p := fun t => t.status = .stall .dataCacheBusy) (by decide)
  · exact exists_next (p := fun t => t.status = .stall .dataCacheMiss) (by decide)
  · exact exists_next (p := fun t => t.status = .stall .loadInterlock) (by decide)
  · exact exists_next (p := fun t => t.status = .stall .instructionCacheBusy) (by decide)
  · exact exists_next (p := fun t => t.status = .ok) (by decide)

theorem witness_FrozenCycleKeepsState :
    unfetched.reading = .cycle ∧ (∃ t, step unfetched = .next t ∧ t.status = .stall .instructionCacheBusy) ∧
    (∃ t, step missing = .next t ∧ t.status = .stall .dataCacheMiss) ∧
    ∃ t, step busy = .next t ∧ t.status = .stall .dataCacheBusy := by
  refine ⟨by decide, ?_, ?_, ?_⟩
  · exact exists_next (p := fun t => t.status = .stall .instructionCacheBusy) (by decide)
  · exact exists_next (p := fun t => t.status = .stall .dataCacheMiss) (by decide)
  · exact exists_next (p := fun t => t.status = .stall .dataCacheBusy) (by decide)

/-- Both directions: `locked` is a `LoadInterlock` cycle, and meets the premises under which one happens. -/
theorem witness_LoadInterlockCycle :
    locked.reading = .cycle ∧ (∃ t, step locked = .next t ∧ t.status = .stall .loadInterlock) ∧
    locked.wasReset = true ∧ locked.nextInputs.reset = false ∧ locked.pc.toNat % 4 = 0 ∧
    (∃ r, locked.dx = some r ∧ isLoad r.ins = true ∧ Config.dest locked.cfg r.ins = some (x 3) ∧ r.taken = false) ∧
    locked.fd = some { pc := 0xFFFFFFFFBFC00008, word := 0xA403004A } ∧
    decode 0xA403004A = .ok (.sh (x 3) (x 0) 0x4A) ∧ x 3 ∈ sources (.sh (x 3) (x 0) 0x4A) ∧
    ∃ m, memoryStage locked = .ok m ∧ m.stall = none := by
  refine ⟨by decide, ?_, by decide, by decide, by decide, ⟨_, rfl, by decide, by decide, by decide⟩, by decide,
    by decide, by decide, ?_⟩
  · exact exists_next (p := fun t => t.status = .stall .loadInterlock) (by decide)
  · exact exists_ok (p := fun m : MemoryResult => m.stall = none) (by decide)

theorem witness_OkCycleAdvances : full.reading = .cycle ∧ ∃ t, step full = .next t ∧ t.status = .ok := by
  refine ⟨by decide, ?_⟩
  exact exists_next (p := fun t => t.status = .ok) (by decide)

/-- An `Ok` cycle that writes, an interlock cycle, and a frozen cycle with a write waiting in Writeback. -/
theorem witness_OneRegisterWrittenPerCycle :
    (∃ t, step full = .next t ∧ t.status = .ok) ∧ (∃ t, step locked = .next t ∧ t.status = .stall .loadInterlock) ∧
    missing.mw.isSome = true ∧ ∃ t, step missing = .next t ∧ ¬(t.status = .ok ∨ t.status = .stall .loadInterlock) := by
  refine ⟨?_, ?_, by decide, ?_⟩
  · exact exists_next (p := fun t => t.status = .ok) (by decide)
  · exact exists_next (p := fun t => t.status = .stall .loadInterlock) (by decide)
  · exact exists_next (p := fun t => ¬(t.status = .ok ∨ t.status = .stall .loadInterlock)) (by decide)

/-- An external store; a cached one, whose line the fill `fills` leaves alone; a cycle that shows no write. -/
theorem witness_StoresLeaveMemoryOnce :
    (leaving.reading = .cycle ∧ accessOf (.sw (x 1) (x 6) 4) = some (.store 4) ∧
      Config.inCachedWindow leaving.cfg 0xFFFFFFFFA0000004 = false ∧
      ∃ t, step leaving = .next t ∧ t.ext.isSome = true ∧ t.status = .ok) ∧
    (Memory.wf DLine.absent (given fills storing).dc ∧ accessOf (.sd (x 1) (x 0) 0x40) = some (.store 8) ∧
      Config.inCachedWindow storing.cfg 0x40 = true ∧ (dfillOf 0x99).index ≠ Config.dindex storing.cfg 0x40 ∧
      ∃ t, step (given fills storing) = .next t ∧ t.status = .ok ∧ t.dcwrite.isSome = true) ∧
    ∃ t, step full = .next t ∧ t.dcwrite = none := by
  refine ⟨⟨by decide, by decide, by decide, ?_⟩, ⟨by decide, by decide, by decide, by decide, ?_⟩, ?_⟩
  · exact exists_next (p := fun t => t.ext.isSome = true ∧ t.status = .ok) (by decide)
  · exact exists_next (p := fun t => t.status = .ok ∧ t.dcwrite.isSome = true) (by decide)
  · exact exists_next (p := fun t => t.dcwrite = none) (by decide)

/-- R82, R295, D13: a store of one byte in a `LoadInterlock` cycle commits too: its byte, the dirty bit, the record. -/
theorem test_store_in_interlock_cycle :
    goes (step { locked with xm := some { pc := 0, ins := .sb (x 1) (x 0) 0x41, result := 0x41, sdata := 0x1AB } }) (fun t =>
      t.status = .stall .loadInterlock ∧ t.dline 8 = { tag := 0, valid := true, dirty := true, data := 0x00ABC3D4E5F60718 } ∧
      t.dcBusy = true ∧
      t.dcwrite = some { rowAddress := 0x40, mask := { size := 0, align := 1 }, data := 0x00AB000000000000 }) := by decide

/-- A run of two `Ok` cycles after a reset cycle, over a line of two `lui` instructions. -/
def runStart : State := given resets (code 0xFFFFFFFFBFC00000 0x3C01DEAD3C021FC0 front)
def twoCycles : Nat → State
  | 0 => after (step runStart)
  | k + 1 => after (step (twoCycles k))

theorem witness_SequentialPcFromReset :
    runStart.reading = .cycle ∧ runStart.nextInputs.reset = true ∧ step runStart = .next (twoCycles 0) ∧
    (∀ k, k < 2 → step (twoCycles k) = .next (twoCycles (k + 1)) ∧ (twoCycles k).nextInputs.reset = false ∧
      ∀ r, (twoCycles (k + 1)).dx = some r → r.taken = false) ∧
    okCycles twoCycles 2 = 2 := by
  refine ⟨by decide, by decide, next_after (by decide), ?_, by decide⟩
  have h : ∀ k, k < 2 → goes (step (twoCycles k)) (fun _ => True) = true ∧
      (twoCycles k).nextInputs.reset = false ∧ ((twoCycles (k + 1)).dx.all fun r => !r.taken) = true := by decide
  intro k hk
  obtain ⟨h1, h2, h3⟩ := h k hk
  refine ⟨next_after h1, h2, fun r hr => ?_⟩
  rw [hr] at h3
  simpa using h3

/-- A miss with the fill of the line, and with none. -/
theorem witness_MissedFetchStallsUntilFilled (i : Inputs) (h : i = fills ∨ i = Inputs.quiet) :
    (given i unfetched).reading = .cycle ∧ (given i unfetched).wasReset = true ∧
    (given i unfetched).nextInputs.reset = false ∧ (given i unfetched).pc.toNat % 4 = 0 ∧
    (given i unfetched).codeByte (given i unfetched).pc = none ∧
    (∃ m, memoryStage (given i unfetched) = .ok m ∧ m.stall = none ∧
      ∃ d, decodeStage (given i unfetched) (executeStage (given i unfetched)) m (writebackStage (given i unfetched)) = .ok d ∧
        d.interlock = false) ∧
    (i = fills → Memory.wf ILine.absent (given i unfetched).ic ∧
      (ifillOf 0x3C01DEAD).index = Config.iindex (given i unfetched).cfg (given i unfetched).pc ∧
      (ifillOf 0x3C01DEAD).tag = Config.itag (given i unfetched).cfg (given i unfetched).pc) := by
  rcases h with rfl | rfl
  · exact ⟨by decide, by decide, by decide, by decide, by decide, ⟨MemoryResult.empty, by decide, by decide,
      DecodeResult.empty, by decide, by decide⟩, fun _ => by decide⟩
  · exact ⟨by decide, by decide, by decide, by decide, by decide, ⟨MemoryResult.empty, by decide, by decide,
      DecodeResult.empty, by decide, by decide⟩, fun h => absurd h (by decide)⟩

/-- A load that misses, with the fill of its line and with none; a store that misses. -/
theorem witness_DataMissStallsUntilFilled (i : Inputs) (h : i = fills ∨ i = Inputs.quiet) :
    (given i missing).reading = .cycle ∧ (given i missing).wasReset = true ∧ (given i missing).nextInputs.reset = false ∧
    (given i missing).pc.toNat % 4 = 0 ∧
    (∃ r, (given i missing).xm = some r ∧ accessOf r.ins = some (.load 8 false) ∧ r.result.toNat % 8 = 0 ∧
      Config.inCachedWindow (given i missing).cfg r.result = true ∧ (given i missing).dataByte r.result = none ∧
      (dfillOf 0x99).index = Config.dindex (given i missing).cfg r.result ∧
      (dfillOf 0x99).tag = Config.dtag (given i missing).cfg r.result) ∧
    (given i missing).dcBusy = false ∧ Memory.wf DLine.absent (given i missing).dc ∧
    accessOf (.sd (x 1) (x 0) 0x40) = some (.store 8) ∧ front.dataByte 0x40 = none := by
  rcases h with rfl | rfl <;>
    exact ⟨by decide, by decide, by decide, by decide,
      ⟨_, rfl, by decide, by decide, by decide, by decide, by decide, by decide⟩, by decide, by decide, by decide, by decide⟩

/-- A busy cycle with a load in Memory, and the step before it: a store that makes the DCache busy. -/
theorem witness_BusyLastsOneCycle :
    busy.reading = .cycle ∧ busy.wasReset = true ∧ busy.nextInputs.reset = false ∧ busy.pc.toNat % 4 = 0 ∧
    (∃ r, busy.xm = some r ∧ accessOf r.ins = some (.load 8 false) ∧ r.result.toNat % 8 = 0 ∧
      Config.inCachedWindow busy.cfg r.result = true) ∧ busy.dcBusy = true ∧
    ∃ t, step storing = .next t ∧ t.dcBusy = true := by
  refine ⟨by decide, by decide, by decide, by decide, ⟨_, rfl, by decide, by decide, by decide⟩, by decide, ?_⟩
  exact exists_next (p := fun t => t.dcBusy = true) (by decide)

theorem witness_LoadInterlockLastsOneCycle :
    locked.reading = .cycle ∧ ∃ t, step locked = .next t ∧ t.status = .stall .loadInterlock ∧ ∃ u, step t = .next u := by
  refine ⟨by decide, after (step locked), next_after (by decide), by decide, _, next_after (by decide)⟩

/-- The state `full` completes: r4 = 5 by Writeback, r2 = 7 by Memory, r1 = 6 by Execute. -/
def fullDone : State := (flush full).getD full

theorem flush_full : flush full = some fullDone := by
  obtain ⟨g, h⟩ := exists_some (e := flush full) (by decide)
  simp [fullDone, h]

/-- Operands from Execute, from Memory, from Writeback and from the register file. -/
theorem witness_BypassGivesProgramOrderValue :
    (∃ m, memoryStage full = .ok m ∧ m.stall = none ∧
      m.fwd = some (x 2, 7)) ∧ (∃ g, flush full = some g) ∧ (executeStage full).fwd = some (x 1, 6) ∧
    writebackStage full = some (x 4, 5) ∧
    ∀ r ∈ [x 1, x 2, x 4, x 9], interlocks full.cfg (executeStage full) r = false := by
  refine ⟨?_, ⟨_, flush_full⟩, by decide, by decide, by decide⟩
  exact exists_ok (p := fun m : MemoryResult => m.stall = none ∧ m.fwd = some (x 2, 7)) (by decide)

theorem witness_PipelineFollowsInstructionLevel :
    full.reading = .cycle ∧ Undisturbed full ∧ (∃ t, step full = .next t ∧ t.status = .ok) ∧
    full.fd = some { pc := 0xFFFFFFFFBFC0000C, word := 0x0022182D } ∧
    decode 0x0022182D = .ok (.daddu (x 3) (x 1) (x 2)) ∧ flush full = some fullDone ∧
    ∃ t, exec (.daddu (x 3) (x 1) (x 2)) (programPoint full fullDone 0xFFFFFFFFBFC0000C) = .next t ∧
      t.status = .ok ∧ t.reg (x 3) = 13 := by
  refine ⟨by decide, ⟨by decide, by decide, by decide⟩, ?_, by decide, by decide, flush_full, ?_⟩
  · exact exists_next (p := fun t => t.status = .ok) (by decide)
  · exact exists_next (p := fun t => t.status = .ok ∧ t.reg (x 3) = 13) (by decide)

/-- A stall with instructions in flight that can complete, and an `Ok` cycle with an empty Decode. -/
theorem witness_IdleCyclesKeepProgramState :
    (locked.reading = .cycle ∧ Undisturbed locked ∧ (∃ g, flush locked = some g) ∧
      ∃ t, step locked = .next t ∧ t.status ≠ .ok) ∧
    storing.reading = .cycle ∧ Undisturbed storing ∧ (∃ g, flush storing = some g) ∧ storing.fd = none ∧
    ∃ t, step storing = .next t := by
  refine ⟨⟨by decide, ⟨by decide, by decide, by decide⟩, exists_some (by decide), ?_⟩, by decide,
    ⟨by decide, by decide, by decide⟩, exists_some (by decide), by decide, _, next_after (by decide)⟩
  exact exists_next (p := fun t => t.status ≠ .ok) (by decide)

/-- A state with lines and instructions in flight that meets the invariant, and from which a step goes on. -/
theorem witness_StepKeepsInvariant : Inv full ∧ ∃ t, step full = .next t := by
  refine ⟨?_, _, next_after (by decide)⟩
  refine
    { legal := by decide
      icForm := by decide
      dcForm := by decide
      icLines := by unfold lineInRange; decide
      dcLines := by unfold lineInRange; decide
      ifills := by intro i h; cases h
      dfills := by intro i h; cases h
      inFlight := full_inFlight
      fdAligned := by intro r h; cases h; decide
      dxAligned := by intro r h; cases h; decide
      xmAligned := by intro r h; cases h; decide
      mwAligned := by intro r h; cases h; decide
      takenIsTransfer := by intro r h h2; cases h; exact absurd h2 (by decide)
      busyIsWrite := by decide }

end Sys2Proof.Tests
end

section
/-! R23: the sequential `pc`. One lemma says what a cycle does to `pc`, by its status; the run is an induction over its
cycles. -/

namespace Sys2Proof.Safety

open Sys2Proof.Machine

/-- R281: a Decode stage that redirects sends on a record marked as taken. -/
theorem decodeUnlessStalled_redirect_none {s : State} {x : ExecuteResult} {m : MemoryResult}
    {w : Option (RegisterId × Word)} {d : DecodeResult} (h : decodeUnlessStalled s x m w = .ok d)
    (ht : ∀ r, d.next = some r → r.taken = false) : d.redirect = none := by
  cases hm : m.stall with
  | some why =>
    simp only [decodeUnlessStalled, hm, Except.ok.injEq] at h
    subst h
    rfl
  | none =>
    simp only [decodeUnlessStalled, hm] at h
    rcases decodeStage_ok h with ⟨-, rfl⟩ | ⟨f, i, -, -, -, ⟨-, rfl⟩ | ⟨-, rfl⟩⟩
    · rfl
    · rfl
    · simpa [issue] using ht _ rfl

/-- R22, R291: only the commit of an `Ok` cycle moves `pc`, and it moves Decode's record to Execute. -/
theorem commitCycle_pc_dx (s : State) (g : Stages) :
    (g.status = .ok ∧ (s.commitCycle g).pc = g.decode.redirect.getD (s.pc + 4) ∧
      (s.commitCycle g).dx = g.decode.next) ∨
    (g.status ≠ .ok ∧ (s.commitCycle g).pc = s.pc) := by
  rcases State.commitCycle_cases s g with ⟨hg, h⟩ | ⟨hg, h⟩ | ⟨r, -, hg, h⟩
  · exact .inl ⟨hg, by simp [h, State.commitBackEnd, State.commitFrontEnd]⟩
  · exact .inr ⟨by simp [hg], by simp [h, State.commitBackEnd]⟩
  · exact .inr ⟨by simp [hg], by simp [h]⟩

/-- R22, R23: a cycle without reset that takes no transfer moves `pc` by 4 if it is `Ok`, and not at all if it stalls. -/
theorem step_cycle_pc_of_not_taken {s t : State} (hr : s.reading = .cycle) (h : step s = .next t)
    (hn : s.nextInputs.reset = false) (ht : ∀ r, t.dx = some r → r.taken = false) :
    t.pc = if t.status = .ok then s.pc + 4 else s.pc := by
  obtain ⟨-, g, -, rfl, -, -, -, hd, -⟩ := step_cycle_next hr h hn
  simp only [State.applyFills_pc, State.applyFills_status, State.applyFills_dx, State.commitCycle_status] at ht ⊢
  rcases commitCycle_pc_dx s.popInputs g with ⟨hg, hpc, hdx⟩ | ⟨hg, hpc⟩
  · rw [hdx] at ht
    simp [hg, hpc, decodeUnlessStalled_redirect_none hd ht]
  · simp [hg, hpc]

/-- Entry 1: a cycle without reset stays in the cycle reading. -/
theorem step_cycle_reading {s t : State} (hr : s.reading = .cycle) (h : step s = .next t)
    (hn : s.nextInputs.reset = false) : t.reading = .cycle := by
  obtain ⟨-, g, -, rfl, -⟩ := step_cycle_next hr h hn
  obtain ⟨-, hg, -⟩ := State.commitCycle_kept s.popInputs g
  simp [hg, hr]

/-- One more cycle counts if it ended `Ok`. -/
theorem okCycles_succ (run : Nat → State) (k : Nat) :
    okCycles run (k + 1) = okCycles run k + if (run (k + 1)).status = .ok then 1 else 0 := by
  simp [okCycles, List.range_succ, List.countP_append, List.countP_cons]

/-- R23: over a run of cycles in which no reset happens and no transfer is taken, `pc` moves by 4 for each `Ok` cycle. -/
theorem pc_of_run_not_taken {run : Nat → State} {n : Nat} (h0 : (run 0).reading = .cycle)
    (h : ∀ k, k < n → step (run k) = .next (run (k + 1)) ∧ (run k).nextInputs.reset = false ∧
      ∀ r, (run (k + 1)).dx = some r → r.taken = false) :
    (run n).reading = .cycle ∧ (run n).pc = (run 0).pc + BitVec.ofNat 64 (4 * okCycles run n) := by
  induction n with
  | zero => exact ⟨h0, by simp [okCycles]⟩
  | succ n ih =>
    obtain ⟨hr, hpc⟩ := ih fun k hk => h k (Nat.lt_succ_of_lt hk)
    obtain ⟨hs, hn, ht⟩ := h n (Nat.lt_succ_self n)
    refine ⟨step_cycle_reading hr hs hn, ?_⟩
    rw [step_cycle_pc_of_not_taken hr hs hn ht, hpc, okCycles_succ]
    split
    · rw [Nat.mul_add, BitVec.ofNat_add, BitVec.add_assoc]
      rfl
    · rfl

/-- Settles O51: the reset cycle puts `pc` at the reset vector, and the run after it moves `pc` by induction on its
cycles. -/
theorem sequentialPcFromReset : Obligations.SequentialPcFromReset := by
  intro start run n hr hi hs h
  have h0 := step_cycle_reset hr hs hi
  rw [(pc_of_run_not_taken (by simp [h0, hr]) h).2, h0]
  simp

end Sys2Proof.Safety
end

section
/-! R97: what a step does to the lines of the caches. Before the fills of its edge it leaves the ICache alone and applies
at most one store to the DCache; a store keeps tags and valid bits and cleans nothing; a fill installs a valid line. -/

namespace Sys2Proof.Safety

open Sys2Proof.Machine

/-! ### A store on the DCache lines (R81) -/

/-- A store keeps the canonical form of the DCache. -/
theorem wf_applyStore_dc {s : State} (hs : Memory.wf DLine.absent s.dc) (e : StoreEffect) :
    Memory.wf DLine.absent (s.applyStore e).dc := by
  cases hc : e.commit with
  | none => simpa [hc] using hs
  | some c => simpa [hc, State.commitStore_some_dc] using Memory.wf_set hs _ _

/-- R81: a store keeps the tag and the valid bit of every line, and a dirty line stays dirty. -/
theorem dline_applyStore {s : State} (hs : Memory.wf DLine.absent s.dc) (e : StoreEffect) (k : Nat) :
    ((s.applyStore e).dline k).tag = (s.dline k).tag ∧ ((s.applyStore e).dline k).valid = (s.dline k).valid ∧
    ((s.dline k).dirty = true → ((s.applyStore e).dline k).dirty = true) := by
  unfold State.dline
  cases hc : e.commit with
  | none => simp [hc]
  | some c =>
    rw [State.applyStore_dc, hc, State.commitStore_some_dc]
    by_cases hk : k = c.index
    · subst hk
      simp [Memory.get_set_same hs, State.dline]
    · simp [Memory.get_set_ne hs _ hk]

/-! ### A fill on the lines (R74 to R76) -/

/-- R74: the ICache line a fill installs. -/
theorem iline_applyFills_same {u : State} (hu : Memory.wf ILine.absent u.ic) {inp : Inputs} {f : Fill}
    (hf : inp.ifill = some f) :
    (u.applyFills inp).iline f.index = { tag := f.tag, valid := true, data := f.data } := by
  rw [State.iline, State.applyFills_ic, hf]
  exact Memory.get_set_same hu _ _

/-- R75: the DCache line a fill installs. -/
theorem dline_applyFills_same {u : State} (hu : Memory.wf DLine.absent u.dc) {inp : Inputs} {f : Fill}
    (hf : inp.dfill = some f) :
    (u.applyFills inp).dline f.index = { tag := f.tag, valid := true, dirty := false, data := f.data } := by
  rw [State.dline, State.applyFills_dc, hf]
  exact Memory.get_set_same hu _ _

/-- R76: a fill leaves every other ICache line alone. -/
theorem iline_applyFills_ne {u : State} (hu : Memory.wf ILine.absent u.ic) {inp : Inputs} {k : Nat}
    (h : ∀ f, inp.ifill = some f → f.index ≠ k) : (u.applyFills inp).iline k = u.iline k := by
  simp only [State.iline, State.applyFills_ic]
  cases hf : inp.ifill with
  | none => rfl
  | some f => exact Memory.get_set_ne hu _ (Ne.symm (h f hf))

/-! ### A step on the caches -/

/-- R291, R295: the commit of a cycle changes the DCache by a store, or not at all. -/
theorem commitCycle_dc (s : State) (g : Stages) : ∃ e, (s.commitCycle g).dc = (s.applyStore e).dc := by
  rcases State.commitCycle_cases s g with ⟨-, h⟩ | ⟨-, h⟩ | ⟨r, -, -, h⟩
  · exact ⟨g.memory.store, by rw [h]; exact applyStore_dc_congr (by simp [State.commitFrontEnd]) _⟩
  · exact ⟨g.memory.store, by rw [h]; exact applyStore_dc_congr (by simp) _⟩
  · exact ⟨StoreEffect.none, by rw [h]; rfl⟩

/-- R81, R259: an instruction changes the DCache by a store, or not at all. -/
theorem exec_dc {i : Instr} {s t : State} (h : exec i s = .next t) : ∃ e, t.dc = (s.applyStore e).dc := by
  rcases exec_next h with ⟨r, v, -, rfl⟩ | ⟨n, v, e, -, -, rfl⟩ | ⟨-, -, rfl⟩ | ⟨-, r, rfl⟩
  · exact ⟨StoreEffect.none, State.retire_dc _ _ _⟩
  · exact ⟨e, applyStore_dc_congr (State.advance_dc s) e⟩
  · exact ⟨StoreEffect.none, State.transfer_dc _ _⟩
  · exact ⟨StoreEffect.none, State.stalled_dc _ _⟩

/-- R295 (entry 11): every step is its fills on a state with the ICache as before and the DCache after a store or none. -/
theorem step_next_caches {s t : State} (h : step s = .next t) :
    ∃ u : State, t = u.applyFills s.nextInputs ∧ u.ic = s.ic ∧ ∃ e, u.dc = (s.applyStore e).dc := by
  cases hr : s.reading with
  | cycle =>
    rw [step_cycle hr] at h
    rcases cycleStep_next h with ⟨-, rfl⟩ | ⟨-, -, g, -, rfl⟩
    · exact ⟨_, rfl, rfl, StoreEffect.none, rfl⟩
    · obtain ⟨-, -, -, hic, -⟩ := State.commitCycle_kept s.popInputs g
      obtain ⟨e, he⟩ := commitCycle_dc s.popInputs g
      exact ⟨_, rfl, hic, e, he.trans (applyStore_dc_congr s.popInputs_dc e)⟩
  | instruction =>
    rw [step_instruction hr] at h
    rcases instructionStep_next h with ⟨-, rfl⟩ | ⟨-, -, ⟨-, rfl⟩ | ⟨w, i, u, -, -, hu, rfl⟩⟩
    · exact ⟨_, rfl, rfl, StoreEffect.none, rfl⟩
    · exact ⟨_, rfl, rfl, StoreEffect.none, rfl⟩
    · obtain ⟨-, -, -, hic, -⟩ := exec_kept hu
      obtain ⟨e, he⟩ := exec_dc hu
      exact ⟨u, rfl, hic, e, he.trans (applyStore_dc_congr s.popInputs_dc e)⟩

/-- R97: in a step, an ICache line that is not filled is kept. -/
theorem step_iline_of_not_filled {s t : State} (hs : Memory.wf ILine.absent s.ic) (h : step s = .next t) {k : Nat}
    (hk : ∀ f, s.nextInputs.ifill = some f → f.index ≠ k) : t.iline k = s.iline k := by
  obtain ⟨u, rfl, hic, -⟩ := step_next_caches h
  rw [iline_applyFills_ne (hic ▸ hs) hk, State.iline, hic, State.iline]

/-- R97: in a step, a DCache line that is not filled keeps its tag and its valid bit, and stays dirty. -/
theorem step_dline_of_not_filled {s t : State} (hs : Memory.wf DLine.absent s.dc) (h : step s = .next t) {k : Nat}
    (hk : NotFilled s k) :
    (t.dline k).tag = (s.dline k).tag ∧ (t.dline k).valid = (s.dline k).valid ∧
    ((s.dline k).dirty = true → (t.dline k).dirty = true) := by
  obtain ⟨u, rfl, -, e, hdc⟩ := step_next_caches h
  have hline : u.dline k = (s.applyStore e).dline k := by simp only [State.dline, hdc]
  rw [State.dline_applyFills (hdc ▸ wf_applyStore_dc hs e) hk, hline]
  exact dline_applyStore hs e k

/-- R74: in a step, the ICache line a fill names is valid afterwards. -/
theorem step_iline_valid_of_filled {s t : State} (hs : Memory.wf ILine.absent s.ic) (h : step s = .next t) {f : Fill}
    (hf : s.nextInputs.ifill = some f) : (t.iline f.index).valid = true := by
  obtain ⟨u, rfl, hic, -⟩ := step_next_caches h
  rw [iline_applyFills_same (hic ▸ hs) hf]

/-- R75: in a step, the DCache line a fill names is valid afterwards. -/
theorem step_dline_valid_of_filled {s t : State} (hs : Memory.wf DLine.absent s.dc) (h : step s = .next t) {f : Fill}
    (hf : s.nextInputs.dfill = some f) : (t.dline f.index).valid = true := by
  obtain ⟨u, rfl, -, e, hdc⟩ := step_next_caches h
  rw [dline_applyFills_same (hdc ▸ wf_applyStore_dc hs e) hf]

/-- Settles O24: a filled line is valid after its fill; of a line that is not filled a step keeps all that R97 names. -/
theorem validLinesStayValid : Obligations.ValidLinesStayValid := by
  intro s t hi hd h k
  refine ⟨fun hv => ?_, fun hv => ?_, step_iline_of_not_filled hi h, step_dline_of_not_filled hd h⟩
  · by_cases hk : ∃ f, s.nextInputs.ifill = some f ∧ f.index = k
    · obtain ⟨f, hf, rfl⟩ := hk
      exact step_iline_valid_of_filled hi h hf
    · rw [step_iline_of_not_filled hi h fun f hf hfk => hk ⟨f, hf, hfk⟩]
      exact hv
  · by_cases hk : ∃ f, s.nextInputs.dfill = some f ∧ f.index = k
    · obtain ⟨f, hf, rfl⟩ := hk
      exact step_dline_valid_of_filled hd h hf
    · obtain ⟨-, hvalid, -⟩ := step_dline_of_not_filled hd h fun f hf hfk => hk ⟨f, hf, hfk⟩
      rw [hvalid]
      exact hv

end Sys2Proof.Safety
end

section
/-! SUPPORT. The Arithmetic/Shift Unit (R140): what each mode answers, as an operation on bit vectors. Proofs about the
unit use these equations and do not unfold it. -/

namespace Sys2Proof.Machine

variable (a b : Word)

@[simp] theorem alu_add64 : alu .add64 a b = a + b := rfl
@[simp] theorem alu_sub64 : alu .sub64 a b = a - b := rfl
@[simp] theorem alu_shiftLeft64 : alu .shiftLeft64 a b = a <<< (b.toNat % 64) := rfl
@[simp] theorem alu_shiftRight64 : alu .shiftRight64 a b = a >>> (b.toNat % 64) := rfl
@[simp] theorem alu_shiftRightArith64 : alu .shiftRightArith64 a b = a.sshiftRight (b.toNat % 64) := rfl

@[simp] theorem alu_setLess : alu .setLess a b = if a.toInt < b.toInt then 1 else 0 := by
  simp [alu, setLess, boolWord]

@[simp] theorem alu_setLessUnsigned : alu .setLessUnsigned a b = if a.toNat < b.toNat then 1 else 0 := by
  simp [alu, setLessUnsigned, boolWord]

/-- R144: the difference modulo `2^64`, as an integer: the word subtraction adds `2^64 - b`. -/
theorem toNat_alu_sub64 : ((alu .sub64 a b).toNat : Int) = ((a.toNat : Int) - b.toNat) % 2 ^ 64 := by
  have hb := b.isLt
  rw [alu_sub64, BitVec.toNat_sub]
  omega

end Sys2Proof.Machine
end

section
/-! The ALU modes of 40_alu_unit.md as arithmetic on the values of the operands. -/

namespace Sys2Proof.Safety

open Sys2Proof.Machine

/-- Settles O8: a left shift multiplies and a right shift divides by `2^s`, the arithmetic one the signed value, where
`Int` division by a positive number rounds down; a shift by 0 is the identity. -/
theorem doublewordShiftModes : Obligations.DoublewordShiftModes := by
  intro a b
  refine ⟨?_, ?_, ?_, fun hs => ?_⟩
  · rw [alu_shiftLeft64, BitVec.toNat_shiftLeft, Nat.shiftLeft_eq]
  · rw [alu_shiftRight64, BitVec.toNat_ushiftRight, Nat.shiftRight_eq_div_pow]
  · rw [alu_shiftRightArith64, BitVec.toInt_sshiftRight, Int.shiftRight_eq_div_pow]
    norm_cast
  · simp only [alu_shiftLeft64, alu_shiftRight64, alu_shiftRightArith64, hs]
    exact ⟨BitVec.shiftLeft_zero a, BitVec.ushiftRight_zero a, BitVec.sshiftRight_zero⟩

/-- Settles O6: each mode is its equation; equal operands have difference 0 and are not less; the rules' examples, fixed
words, are evaluated. -/
theorem arithmeticAndCompareModes : Obligations.ArithmeticAndCompareModes := by
  refine ⟨fun a b => ⟨?_, toNat_alu_sub64 a b, alu_setLess a b, alu_setLessUnsigned a b⟩,
    fun a => ⟨?_, ?_, ?_⟩, by decide⟩
  · rw [alu_add64, BitVec.toNat_add]
  · rw [alu_sub64, BitVec.sub_self]
    rfl
  · rw [alu_setLess, if_neg (Int.lt_irrefl _)]
  · rw [alu_setLessUnsigned, if_neg (Nat.lt_irrefl _)]

end Sys2Proof.Safety
end

section
/-! SUPPORT. The bytes of a doubleword (R9): what the bitwise operations and the shifts by whole bytes do to byte `i`,
and the equality of doublewords byte by byte. -/

namespace Sys2Proof.Machine

@[simp] theorem getElem_byteOf (v : Word) (i : Nat) {k : Nat} (hk : k < 8) :
    (byteOf v i)[k] = v.getLsbD (56 - 8 * i + k) :=
  BitVec.getElem_extractLsb' hk

@[simp] theorem byteOf_and (v w : Word) (i : Nat) : byteOf (v &&& w) i = byteOf v i &&& byteOf w i :=
  BitVec.extractLsb'_and

@[simp] theorem byteOf_or (v w : Word) (i : Nat) : byteOf (v ||| w) i = byteOf v i ||| byteOf w i :=
  BitVec.extractLsb'_or

@[simp] theorem byteOf_not (v : Word) (i : Nat) : byteOf (~~~v) i = ~~~byteOf v i := by
  ext k hk
  have hin : 56 - 8 * i + k < 64 := by omega
  simp [hin]

/-- A left shift by `c` bytes moves each byte `c` places towards byte 0 and fills with zero bytes. -/
theorem byteOf_shiftLeft (v : Word) (c : Nat) {i : Nat} (hi : i < 8) :
    byteOf (v <<< (c * 8)) i = if i + c < 8 then byteOf v (i + c) else 0 := by
  ext k hk
  have hin : 56 - 8 * i + k < 64 := by omega
  split
  case isTrue h =>
    have hge : ¬ 56 - 8 * i + k < c * 8 := by omega
    have hpos : 56 - 8 * i + k - c * 8 = 56 - 8 * (i + c) + k := by omega
    rw [getElem_byteOf _ _ hk, getElem_byteOf _ _ hk, BitVec.getLsbD_shiftLeft, hpos, decide_eq_true hin,
      decide_eq_false hge]
    rfl
  case isFalse h =>
    have hlt : 56 - 8 * i + k < c * 8 := by omega
    simp [hlt]

/-- A right shift by `c` bytes moves each byte `c` places away from byte 0 and fills with zero bytes. -/
theorem byteOf_ushiftRight (v : Word) (c : Nat) {i : Nat} (hi : i < 8) :
    byteOf (v >>> (c * 8)) i = if c ≤ i then byteOf v (i - c) else 0 := by
  ext k hk
  split
  case isTrue h =>
    have hpos : c * 8 + (56 - 8 * i + k) = 56 - 8 * (i - c) + k := by omega
    simp [hpos]
  case isFalse h =>
    have hout : 64 ≤ c * 8 + (56 - 8 * i + k) := by omega
    simp [BitVec.getLsbD_of_ge v _ hout]

/-- R9: a doubleword is its eight bytes, the most significant first. -/
theorem append_byteOf (v : Word) :
    byteOf v 0 ++ byteOf v 1 ++ byteOf v 2 ++ byteOf v 3
      ++ byteOf v 4 ++ byteOf v 5 ++ byteOf v 6 ++ byteOf v 7 = v := by
  unfold byteOf
  iterate 7 rw [BitVec.extractLsb'_append_extractLsb'_eq_extractLsb']
  · exact BitVec.extractLsb'_eq_self
  all_goals rfl

theorem eq_of_byteOf_eq {v w : Word} (h : ∀ i, i < 8 → byteOf v i = byteOf w i) : v = w := by
  rw [← append_byteOf v, ← append_byteOf w, h 0 (by decide), h 1 (by decide), h 2 (by decide), h 3 (by decide),
    h 4 (by decide), h 5 (by decide), h 6 (by decide), h 7 (by decide)]

end Sys2Proof.Machine
end

section
/-! SUPPORT. The Memory Mask Unit (41_mask_unit.md) on numbers, bits and bytes: one rule per function of the unit. -/

namespace Sys2Proof.Machine

theorem MemMask.legal_iff (m : MemMask) : m.legal = true ↔ m.size + m.align ≤ 7 := by
  simp [MemMask.legal]

/-! ### Ones in the low bits -/

theorem toNat_ones {n : Nat} (hn : n ≤ 64) : (ones n).toNat = 2 ^ n - 1 := by
  have hpow : 2 ^ n ≤ 2 ^ 64 := Nat.pow_le_pow_right (by decide) hn
  rw [ones, BitVec.toNat_ofNat, Nat.mod_eq_of_lt (by omega)]

theorem getLsbD_ones (n k : Nat) : (ones n).getLsbD k = (decide (k < 64) && decide (k < n)) := by
  rw [ones, BitVec.getLsbD_ofNat, Nat.testBit_two_pow_sub_one]

/-- The low `n` bytes of `ones (n * 8)` are full and the others empty. -/
theorem byteOf_ones (n : Nat) {i : Nat} (hi : i < 8) :
    byteOf (ones (n * 8)) i = if 8 ≤ n + i then BitVec.allOnes 8 else 0 := by
  ext k hk
  have hin : 56 - 8 * i + k < 64 := by omega
  have hlow : 56 - 8 * i + k < n * 8 ↔ 8 ≤ n + i := by omega
  rw [getElem_byteOf _ _ hk, getLsbD_ones, decide_eq_true hin, Bool.true_and]
  by_cases h : 8 ≤ n + i
  · rw [if_pos h, BitVec.getElem_allOnes, decide_eq_true (hlow.mpr h)]
  · rw [if_neg h, decide_eq_false (mt hlow.mp h)]
    exact (BitVec.getElem_zero hk).symm

variable {m : MemMask}

theorem len_le_of_legal (hm : m.legal = true) : m.len ≤ 64 := by
  have hfit := m.legal_iff.mp hm
  rw [MemMask.len]
  omega

/-! ### The masks -/

/-- R163: the formula fits in eight bits. -/
theorem toNat_byteMask (hm : m.legal = true) : (byteMask m).toNat = (2 ^ (m.size + 1) - 1) * 2 ^ m.align := by
  have hfit : (2 ^ (m.size + 1) - 1) * 2 ^ m.align < 2 ^ 8 := calc
    (2 ^ (m.size + 1) - 1) * 2 ^ m.align < 2 ^ (m.size + 1) * 2 ^ m.align :=
      Nat.mul_lt_mul_of_pos_right (Nat.sub_lt (Nat.two_pow_pos _) Nat.one_pos) (Nat.two_pow_pos _)
    _ = 2 ^ (m.size + 1 + m.align) := (Nat.pow_add ..).symm
    _ ≤ 2 ^ 8 := Nat.pow_le_pow_right (by decide) (by have := m.legal_iff.mp hm; omega)
  rw [byteMask, BitVec.toNat_ofNat, Nat.mod_eq_of_lt hfit]

theorem getLsbD_byteMask (m : MemMask) {i : Nat} (hi : i < 8) :
    (byteMask m).getLsbD i = decide (m.align ≤ i ∧ i ≤ m.align + m.size) := by
  have hwidth : i - m.align < m.size + 1 ↔ i ≤ m.align + m.size := by omega
  rw [byteMask, BitVec.getLsbD_ofNat, Nat.testBit_mul_two_pow, Nat.testBit_two_pow_sub_one]
  simp [hi, hwidth]

/-- R164: the bit mask is full on the occupied bytes and empty on the others. -/
theorem byteOf_bitMask (hm : m.legal = true) {i : Nat} (hi : i < 8) :
    byteOf (bitMask m) i = if m.align ≤ i ∧ i ≤ m.align + m.size then BitVec.allOnes 8 else 0 := by
  have hfit := m.legal_iff.mp hm
  rw [bitMask, MemMask.shift, byteOf_shiftLeft _ _ hi]
  by_cases hend : i ≤ m.align + m.size
  · have hin : i + (7 - (m.align + m.size)) < 8 := by omega
    have hstart : 8 ≤ m.size + 1 + (i + (7 - (m.align + m.size))) ↔ m.align ≤ i := by omega
    simp [MemMask.len, byteOf_ones _ hin, hin, hstart, hend]
  · have hout : ¬ i + (7 - (m.align + m.size)) < 8 := by omega
    simp [hout, hend]

/-! ### Reading the field -/

/-- R165: shifting divides, masking takes the remainder. -/
theorem toNat_extract (hm : m.legal = true) (a : Word) :
    (extract m a).toNat = a.toNat / 2 ^ ((7 - (m.align + m.size)) * 8) % 2 ^ ((m.size + 1) * 8) := by
  rw [extract, BitVec.toNat_and, toNat_ones (len_le_of_legal hm), Nat.and_two_pow_sub_one_eq_mod,
    BitVec.toNat_ushiftRight, Nat.shiftRight_eq_div_pow, MemMask.shift, MemMask.len]

theorem byteOf_extract_field (hm : m.legal = true) (a : Word) {j : Nat} (hj : j ≤ m.size) :
    byteOf (extract m a) (7 - m.size + j) = byteOf a (m.align + j) := by
  have hfit := m.legal_iff.mp hm
  have hi : 7 - m.size + j < 8 := by omega
  have hlow : 8 ≤ m.size + 1 + (7 - m.size + j) := by omega
  have hmoved : 7 - (m.align + m.size) ≤ 7 - m.size + j := by omega
  have hpos : 7 - m.size + j - (7 - (m.align + m.size)) = m.align + j := by omega
  rw [extract, byteOf_and, MemMask.shift, MemMask.len, byteOf_ushiftRight _ _ hi, byteOf_ones _ hi, if_pos hmoved,
    if_pos hlow, hpos, BitVec.and_allOnes]

theorem byteOf_extract_above (m : MemMask) (a : Word) {j : Nat} (hj : j < 7 - m.size) : byteOf (extract m a) j = 0 := by
  have hi : j < 8 := by omega
  have hhigh : ¬ 8 ≤ m.size + 1 + j := by omega
  rw [extract, byteOf_and, MemMask.len, byteOf_ones _ hi, if_neg hhigh]
  exact BitVec.and_zero

/-- R166: sign-extension keeps the two's-complement value of the field. -/
theorem toInt_extractSigned (hm : m.legal = true) (a : Word) :
    (extractSigned m a).toInt = Int.bmod (extract m a).toNat (2 ^ ((m.size + 1) * 8)) := by
  rw [extractSigned, BitVec.toInt_signExtend_of_le (len_le_of_legal hm), BitVec.toInt_setWidth, MemMask.len]

/-- R165: size 7 leaves room for align 0 only, and the field is the whole doubleword. -/
theorem extract_of_size_seven (hm : m.legal = true) (hs : m.size = 7) (a : Word) : extract m a = a := by
  have halign : m.align = 0 := by have := m.legal_iff.mp hm; omega
  apply BitVec.eq_of_toNat_eq
  rw [toNat_extract hm, halign, hs]
  simpa using Nat.mod_eq_of_lt a.isLt

theorem extractSigned_of_size_seven (hm : m.legal = true) (hs : m.size = 7) (a : Word) : extractSigned m a = a := by
  apply BitVec.eq_of_toInt_eq
  rw [toInt_extractSigned hm, extract_of_size_seven hm hs, hs, BitVec.toInt_eq_toNat_bmod]

/-! ### Replacing the field -/

theorem byteOf_clear (hm : m.legal = true) (a : Word) {i : Nat} (hi : i < 8) :
    byteOf (clear m a) i = if m.align ≤ i ∧ i ≤ m.align + m.size then 0 else byteOf a i := by
  rw [clear, byteOf_and, byteOf_not, byteOf_bitMask hm hi]
  split
  · rw [BitVec.not_allOnes]
    exact BitVec.and_zero
  · exact BitVec.and_allOnes

theorem byteOf_insertAligned (hm : m.legal = true) (a b : Word) {i : Nat} (hi : i < 8) :
    byteOf (insertAligned m a b) i = if m.align ≤ i ∧ i ≤ m.align + m.size then byteOf b i else byteOf a i := by
  rw [insertAligned, byteOf_or, byteOf_and, byteOf_clear hm a hi, byteOf_bitMask hm hi]
  split
  · rw [BitVec.and_allOnes]
    exact BitVec.zero_or
  · simp

/-- R168: `insert` is `insertAligned` of the payload at its final bit position. -/
theorem insert_eq_insertAligned (m : MemMask) (a b : Word) :
    insert m a b = insertAligned m a (b <<< ((7 - (m.align + m.size)) * 8)) := rfl

theorem byteOf_insert (hm : m.legal = true) (a b : Word) {i : Nat} (hi : i < 8) :
    byteOf (insert m a b) i =
      if m.align ≤ i ∧ i ≤ m.align + m.size then byteOf b (i + 7 - (m.align + m.size)) else byteOf a i := by
  have hfit := m.legal_iff.mp hm
  rw [insert_eq_insertAligned, byteOf_insertAligned hm a _ hi]
  split
  case isTrue h =>
    have hin : i + (7 - (m.align + m.size)) < 8 := by omega
    rw [byteOf_shiftLeft _ _ hi, if_pos hin, show i + (7 - (m.align + m.size)) = i + 7 - (m.align + m.size) by omega]
  case isFalse h => rfl

/-- R167: the field that is read goes back to the bytes it came from. -/
theorem insert_extract (hm : m.legal = true) (a : Word) : insert m a (extract m a) = a := by
  have hfit := m.legal_iff.mp hm
  refine eq_of_byteOf_eq fun i hi => ?_
  rw [byteOf_insert hm a _ hi]
  split
  case isTrue h =>
    have hfield : i + 7 - (m.align + m.size) = 7 - m.size + (i - m.align) := by omega
    rw [hfield, byteOf_extract_field hm a (by omega), show m.align + (i - m.align) = i by omega]
  case isFalse h => rfl

theorem muxByte_eq_byteOf_insertAligned (hm : m.legal = true) (a b : Word) {i : Nat} (hi : i < 8) :
    muxByte m a b i = byteOf (insertAligned m a b) i := by
  simp only [muxByte, getLsbD_byteMask m hi, byteOf_insertAligned hm a b hi, decide_eq_true_eq]

/-- R169: the multiplexer puts the bytes of `insertAligned` together. -/
theorem byteMux_eq_insertAligned (hm : m.legal = true) (a b : Word) : byteMux m a b = insertAligned m a b := by
  rw [byteMux, ← append_byteOf (insertAligned m a b)]
  simp only [muxByte_eq_byteOf_insertAligned hm a b, Nat.reduceLT]

end Sys2Proof.Machine
end

section
/-! The Memory Mask Unit of 41_mask_unit.md, for every legal mask. -/

namespace Sys2Proof.Safety

open Sys2Proof.Machine

/-- Settles O12: the shift and the mask as division and remainder, byte by byte, and the sign-extension of the field. -/
theorem extractReadsTheField : Obligations.ExtractReadsTheField := by
  intro m hm a
  exact ⟨toNat_extract hm a, fun _ hj => byteOf_extract_field hm a hj, fun _ hj => byteOf_extract_above m a hj,
    toInt_extractSigned hm a,
    fun hs => ⟨extract_of_size_seven hm hs a, extractSigned_of_size_seven hm hs a⟩⟩

/-- Settles O13: each function of the unit by its bytes, the equalities from them. -/
theorem insertReplacesTheField : Obligations.InsertReplacesTheField := by
  intro m hm a b
  exact ⟨fun _ hi => byteOf_clear hm a hi, fun _ hi => byteOf_insert hm a b hi,
    fun _ hi => byteOf_insertAligned hm a b hi, insert_extract hm a, (byteMux_eq_insertAligned hm a b).symm,
    insert_eq_insertAligned m a b⟩

/-- Settles O11: the formula fits in eight bits, its bits are a run of ones shifted to `align`; the rule's examples,
fixed masks, are evaluated. -/
theorem byteMaskMarksOccupiedBytes : Obligations.ByteMaskMarksOccupiedBytes :=
  ⟨fun m hm => ⟨toNat_byteMask hm, fun _ hi => getLsbD_byteMask m hi⟩, by decide⟩

end Sys2Proof.Safety
end

section
/-! The encoding of 30_encoding.md: decoding and encoding are inverse on the words the opcode table admits. One rule per
form of a word; the instructions are taken in groups by their form. -/

namespace Sys2Proof

/-! ### Decoding an encoded form (R112, R118, R119) -/

@[simp] theorem decode_encodeR (rs rt rd sh : BitVec 5) (func : BitVec 6) :
    decode (encodeR rs rt rd sh func) = decodeSpecial (encodeR rs rt rd sh func) := by
  simp [decode]

@[simp] theorem decode_encodeThree (rd rs rt : RegisterId) (func : BitVec 6) :
    decode (encodeThree rd rs rt func) = decodeSpecial (encodeThree rd rs rt func) := decode_encodeR ..

@[simp] theorem decode_encodeShift (rd rt : RegisterId) (sa : BitVec 5) (func : BitVec 6) :
    decode (encodeShift rd rt sa func) = decodeSpecial (encodeShift rd rt sa func) := decode_encodeR ..

@[simp] theorem funcField_encodeThree (rd rs rt : RegisterId) (func : BitVec 6) :
    funcField (encodeThree rd rs rt func) = func := funcField_encodeR ..

@[simp] theorem funcField_encodeShift (rd rt : RegisterId) (sa : BitVec 5) (func : BitVec 6) :
    funcField (encodeShift rd rt sa func) = func := funcField_encodeR ..

@[simp] theorem opField_encodeImm (op : BitVec 6) (rt rs : RegisterId) (imm : BitVec 16) :
    opField (encodeImm op rt rs imm) = op := opField_encodeI ..

theorem decodeThree_encodeThree {rd rs rt : RegisterId} (func : BitVec 6)
    (mk : RegisterId → RegisterId → RegisterId → Instr)
    (hd : rd.isInteger = true) (hs : rs.isInteger = true) (ht : rt.isInteger = true) :
    decodeThree (encodeThree rd rs rt func) mk = .ok (mk rd rs rt) := by
  simp [decodeThree, encodeThree, hd, hs, ht]

theorem decodeShift_encodeShift {rd rt : RegisterId} (sa : BitVec 5) (func : BitVec 6)
    (mk : RegisterId → RegisterId → BitVec 5 → Instr) (hd : rd.isInteger = true) (ht : rt.isInteger = true) :
    decodeShift (encodeShift rd rt sa func) mk = .ok (mk rd rt sa) := by
  simp [decodeShift, encodeShift, hd, ht]

theorem decodeImm_encodeImm {rt rs : RegisterId} (op : BitVec 6) (imm : BitVec 16)
    (mk : RegisterId → RegisterId → BitVec 16 → Instr) (ht : rt.isInteger = true) (hs : rs.isInteger = true) :
    decodeImm (encodeImm op rt rs imm) mk = .ok (mk rt rs imm) := by
  simp [decodeImm, encodeImm, ht, hs]

theorem decodeBranch_encodeI {rs rt : RegisterId} (op : BitVec 6) (imm : BitVec 16)
    (mk : RegisterId → RegisterId → BitVec 16 → Instr) (hs : rs.isInteger = true) (ht : rt.isInteger = true) :
    decodeBranch (encodeI op rs.field rt.field imm) mk = .ok (mk rs rt imm) := by
  simp [decodeBranch, hs, ht]

/-- R121: an encoded instruction is read back, with the operands of a well-formed one. -/
theorem decode_encode {i : Instr} (h : i.wellFormed = true) : decode (encode i) = .ok i := by
  cases i <;> simp only [Instr.wellFormed, Bool.and_eq_true] at h
  case lui => simp [encode, decode, decodeLui, h]
  case ori | daddiu | slti | sltiu | lb | lbu | lh | lhu | lw | lwu | ld | sb | sh | sw | sd =>
    simp [encode, decode, decodeImm_encodeImm, h]
  case or | slt | sltu | daddu | dsubu => simp [encode, decodeSpecial, decodeThree_encodeThree, h]
  case sllv | srlv | srav | dsllv | dsrlv | dsrav =>
    simp [encode, decodeSpecial, decodeShiftVar, decodeThree_encodeThree, h]
  case sll | srl | sra | dsll | dsrl | dsra | dsll32 | dsrl32 | dsra32 =>
    simp [encode, decodeSpecial, decodeShift_encodeShift, h]
  case beq | bne => simp [encode, decode, decodeBranch_encodeI, h]
  case j => simp [encode, decode]
  case jr => simp [encode, decodeSpecial, decodeJr, h]

/-- R66: the bytes of an encoded instruction at the head of a byte list. -/
theorem decodeBytes_encodeBytes {i : Instr} (h : i.wellFormed = true) (rest : List Byte) :
    decodeBytes (encodeBytes i ++ rest) = .ok (i, rest) := by
  simp [encodeBytes, wordBytes, decodeBytes, wordOfBytes_wordBytes, decode_encode h]

/-! ### A word that decodes is the encoding of its instruction

`Encodes w o`: what the decoder answers, if it is an instruction, is a well-formed one whose encoding is `w`. -/

/-- The answer `o` of a decoder on the word `w` is a rejection, or a well-formed instruction that `w` encodes. -/
def Encodes (w : InsWord) (o : Except DecodeReject Instr) : Prop :=
  ∀ i, o = .ok i → encode i = w ∧ i.wellFormed = true

theorem encodes_error (w : InsWord) (e : DecodeReject) : Encodes w (.error e) := nofun

theorem encodes_ok {w : InsWord} {i : Instr} : Encodes w (.ok i) ↔ encode i = w ∧ i.wellFormed = true :=
  ⟨fun h => h i rfl, fun h _ hi => Except.ok.inj hi ▸ h⟩

variable {w : InsWord}

theorem encodes_decodeThree {mk : RegisterId → RegisterId → RegisterId → Instr} {func : BitVec 6}
    (h0 : opField w = 0) (hf : funcField w = func) (he : ∀ rd rs rt, encode (mk rd rs rt) = encodeThree rd rs rt func)
    (hw : ∀ a b c : BitVec 5, (mk (regOfField a) (regOfField b) (regOfField c)).wellFormed = true) :
    Encodes w (decodeThree w mk) := by
  unfold decodeThree
  split
  case isTrue hs =>
    refine encodes_ok.mpr ⟨?_, hw ..⟩
    rw [he, encodeThree, field_regOfField, field_regOfField, field_regOfField, ← hs, ← hf, encodeR_fields w h0]
  case isFalse => exact encodes_error _ _

theorem encodes_decodeShift {mk : RegisterId → RegisterId → BitVec 5 → Instr} {func : BitVec 6}
    (h0 : opField w = 0) (hf : funcField w = func) (he : ∀ rd rt sa, encode (mk rd rt sa) = encodeShift rd rt sa func)
    (hw : ∀ a b c, (mk (regOfField a) (regOfField b) c).wellFormed = true) :
    Encodes w (decodeShift w mk) := by
  unfold decodeShift
  split
  case isTrue hs =>
    refine encodes_ok.mpr ⟨?_, hw ..⟩
    rw [he, encodeShift, field_regOfField, field_regOfField, ← hs, ← hf, encodeR_fields w h0]
  case isFalse => exact encodes_error _ _

theorem encodes_decodeJr (h0 : opField w = 0) (hf : funcField w = 0x08) : Encodes w (decodeJr w) := by
  unfold decodeJr
  split
  case isTrue hs =>
    obtain ⟨ht, hd, hsh⟩ := hs
    refine encodes_ok.mpr ⟨?_, rfl⟩
    rw [encode, field_regOfField, ← hf]
    simpa [ht, hd, hsh] using encodeR_fields w h0
  case isFalse => exact encodes_error _ _

theorem encodes_decodeLui (hop : opField w = 0x0F) : Encodes w (decodeLui w) := by
  unfold decodeLui
  split
  case isTrue hs =>
    refine encodes_ok.mpr ⟨?_, rfl⟩
    rw [encode, field_regOfField, ← hs, encodeI_fields w _ hop]
  case isFalse => exact encodes_error _ _

theorem encodes_decodeImm {mk : RegisterId → RegisterId → BitVec 16 → Instr} {op : BitVec 6} (hop : opField w = op)
    (he : ∀ rt rs imm, encode (mk rt rs imm) = encodeImm op rt rs imm)
    (hw : ∀ a b c, (mk (regOfField a) (regOfField b) c).wellFormed = true) :
    Encodes w (decodeImm w mk) := by
  refine encodes_ok.mpr ⟨?_, hw ..⟩
  rw [he, encodeImm, field_regOfField, field_regOfField, encodeI_fields w _ hop]

theorem encodes_decodeBranch {mk : RegisterId → RegisterId → BitVec 16 → Instr} {op : BitVec 6} (hop : opField w = op)
    (he : ∀ rs rt imm, encode (mk rs rt imm) = encodeI op rs.field rt.field imm)
    (hw : ∀ a b c, (mk (regOfField a) (regOfField b) c).wellFormed = true) :
    Encodes w (decodeBranch w mk) := by
  refine encodes_ok.mpr ⟨?_, hw ..⟩
  rw [he, field_regOfField, field_regOfField, encodeI_fields w _ hop]

theorem encodes_decodeSpecial (h0 : opField w = 0) : Encodes w (decodeSpecial w) := by
  unfold decodeSpecial
  split
  case h_1 | h_2 | h_3 | h_16 | h_17 | h_18 | h_19 | h_20 | h_21 =>
    exact encodes_decodeShift h0 (BitVec.eq_of_toNat_eq ‹_›) (fun _ _ _ => rfl) fun _ _ _ => rfl
  case h_4 | h_5 | h_6 | h_8 | h_9 | h_10 | h_11 | h_12 | h_13 | h_14 | h_15 =>
    exact encodes_decodeThree h0 (BitVec.eq_of_toNat_eq ‹_›) (fun _ _ _ => rfl) fun _ _ _ => rfl
  case h_7 => exact encodes_decodeJr h0 (BitVec.eq_of_toNat_eq ‹_›)
  case h_22 => exact encodes_error _ _

theorem encodes_decode (w : InsWord) : Encodes w (decode w) := by
  unfold decode
  split
  case h_1 => exact encodes_decodeSpecial (BitVec.eq_of_toNat_eq ‹_›)
  case h_2 => exact encodes_ok.mpr ⟨encodeJ_fields w _ (BitVec.eq_of_toNat_eq ‹_›), rfl⟩
  case h_3 | h_4 =>
    exact encodes_decodeBranch (BitVec.eq_of_toNat_eq ‹_›) (fun _ _ _ => rfl) fun _ _ _ => rfl
  case h_8 => exact encodes_decodeLui (BitVec.eq_of_toNat_eq ‹_›)
  case h_21 => exact encodes_error _ _
  all_goals exact encodes_decodeImm (BitVec.eq_of_toNat_eq ‹_›) (fun _ _ _ => rfl) fun _ _ _ => rfl

/-- R121: the words that decode to `i` are the encoding of `i`, if it is well-formed. -/
theorem decode_eq_ok_iff {w : InsWord} {i : Instr} : decode w = .ok i ↔ encode i = w ∧ i.wellFormed = true := by
  constructor
  · exact encodes_decode w i
  · rintro ⟨rfl, h⟩
    exact decode_encode h

theorem wellFormed_of_decode {w : InsWord} {i : Instr} (h : decode w = .ok i) : i.wellFormed = true :=
  (decode_eq_ok_iff.mp h).2

end Sys2Proof

namespace Sys2Proof.Safety

/-- Settles O2: each instruction is read back by its form, as a word and from its bytes. -/
theorem decodeEncodeRoundTrip : Obligations.DecodeEncodeRoundTrip :=
  fun _ h => ⟨decode_encode h, decodeBytes_encodeBytes h⟩

/-- Settles O3: a word is put together again from the fields its instruction was read from. -/
theorem encodeDecodeRoundTrip : Obligations.EncodeDecodeRoundTrip :=
  fun _ _ h => decode_eq_ok_iff.mp h

end Sys2Proof.Safety
end

section
/-! The opcode table (R120): a row admits exactly the encodings of the instructions that have its mnemonic. -/

namespace Sys2Proof

open Sys2Proof.Safety

/-! ### The masks of the table on an encoded word -/

section
variable (op op' func func' : BitVec 6) (rs rt rd sh rs' rt' rd' sh' : BitVec 5) (imm imm' : BitVec 16)
  (target : BitVec 26)

theorem and_all5 : rs &&& 0x1F#5 = rs := BitVec.and_allOnes

theorem and_all6 : op &&& 0x3F#6 = op := BitVec.and_allOnes

/-- A mask of the table on an I-type word. -/
theorem encodeI_and :
    encodeI op rs rt imm &&& (op' ++ rs' ++ rt' ++ imm') =
      encodeI (op &&& op') (rs &&& rs') (rt &&& rt') (imm &&& imm') := by
  have h (x y : BitVec (6 + 5 + 5)) (z z' : BitVec 16) : (x ++ z) &&& (y ++ z') = (x &&& y) ++ (z &&& z') :=
    BitVec.and_append
  refine (h ..).trans ?_
  simp only [encodeI, BitVec.and_append]

/-- A mask of the table on an R-type word: the mask covers `op`. -/
theorem encodeR_and :
    encodeR rs rt rd sh func &&& (0x3F#6 ++ rs' ++ rt' ++ rd' ++ sh' ++ func') =
      encodeR (rs &&& rs') (rt &&& rt') (rd &&& rd') (sh &&& sh') (func &&& func') := by
  have h (x y : BitVec (6 + 5 + 5 + 5 + 5)) (z z' : BitVec 6) : (x ++ z) &&& (y ++ z') = (x &&& y) ++ (z &&& z') :=
    BitVec.and_append
  refine (h ..).trans ?_
  simp only [encodeR, BitVec.and_append]
  rfl

@[simp] theorem encodeI_and_op : encodeI op rs rt imm &&& 0xFC000000#32 = encodeI op 0 0 0 := by
  simpa [and_all6] using encodeI_and op 0x3F#6 rs rt 0 0 imm 0

@[simp] theorem encodeI_and_lui : encodeI op rs rt imm &&& 0xFFE00000#32 = encodeI op rs 0 0 := by
  simpa [and_all5, and_all6] using encodeI_and op 0x3F#6 rs rt 0x1F#5 0 imm 0

@[simp] theorem encodeJ_and_op : encodeJ op target &&& 0xFC000000#32 = encodeJ op 0 := by
  have h : encodeJ op target &&& (0x3F#6 ++ 0#26) = encodeJ (op &&& 0x3F#6) (target &&& 0#26) := BitVec.and_append
  simpa [and_all6] using h

@[simp] theorem encodeR_and_three : encodeR rs rt rd sh func &&& 0xFC0007FF#32 = encodeR 0 0 0 sh func := by
  simpa [and_all5, and_all6] using encodeR_and func 0x3F#6 rs rt rd sh 0 0 0 0x1F#5

@[simp] theorem encodeR_and_shift : encodeR rs rt rd sh func &&& 0xFFE0003F#32 = encodeR rs 0 0 0 func := by
  simpa [and_all5, and_all6] using encodeR_and func 0x3F#6 rs rt rd sh 0x1F#5 0 0 0

@[simp] theorem encodeR_and_jr : encodeR rs rt rd sh func &&& 0xFC1FFFFF#32 = encodeR 0 rt rd sh func := by
  simpa [and_all5, and_all6] using encodeR_and func 0x3F#6 rs rt rd sh 0 0x1F#5 0x1F#5 0x1F#5

end

/-- R120: the row of a mnemonic. -/
def rowNamed (name : String) : Option OpcodeRow := opcodeTable.find? fun r => r.mnemonic == name

theorem exists_row_admits {w b m : InsWord} {name : String} (h : rowNamed name = some ⟨name, b, m⟩) (hw : w &&& m = b) :
    ∃ r ∈ opcodeTable, r.admits w = true ∧ r.mnemonic = name :=
  ⟨_, List.mem_of_find?_eq_some h, by simpa [OpcodeRow.admits] using hw, rfl⟩

/-- R120: the row of an instruction's mnemonic admits its encoding: masked, only the row's own bits are left. -/
theorem exists_row_admits_encode (i : Instr) :
    ∃ r ∈ opcodeTable, r.admits (encode i) = true ∧ r.mnemonic = i.mnemonic := by
  cases i
  case lui => exact exists_row_admits rfl (encodeI_and_lui ..)
  case ori | daddiu | slti | sltiu | lb | lbu | lh | lhu | lw | lwu | ld | sb | sh | sw | sd | beq | bne =>
    exact exists_row_admits rfl (encodeI_and_op ..)
  case or | slt | sltu | daddu | dsubu | sllv | srlv | srav | dsllv | dsrlv | dsrav =>
    exact exists_row_admits rfl (encodeR_and_three ..)
  case sll | srl | sra | dsll | dsrl | dsra | dsll32 | dsrl32 | dsra32 =>
    exact exists_row_admits rfl (encodeR_and_shift ..)
  case j => exact exists_row_admits rfl (encodeJ_and_op ..)
  case jr => exact exists_row_admits rfl (encodeR_and_jr ..)

/-! ### The words a row admits -/

/-- A field that the mask of a row covers has the row's bits. -/
theorem field_of_admits {w m b : InsWord} {name : String} (lo len : Nat)
    (h : OpcodeRow.admits ⟨name, b, m⟩ w = true) (hm : m.extractLsb' lo len = BitVec.allOnes len) :
    w.extractLsb' lo len = b.extractLsb' lo len := by
  have hb : w &&& m = b := by simpa [OpcodeRow.admits] using h
  rw [← hb, BitVec.extractLsb'_and, hm, BitVec.and_allOnes]

section
variable {w b : InsWord} {name : String}

theorem exists_decode_of_immRow (mk : RegisterId → RegisterId → BitVec 16 → Instr)
    (h : OpcodeRow.admits ⟨name, b, 0xFC000000⟩ w = true)
    (he : ∀ rt rs imm, encode (mk rt rs imm) = encodeImm (opField b) rt rs imm := by intros; rfl)
    (hw : ∀ a b c, (mk (regOfField a) (regOfField b) c).wellFormed = true := by intros; rfl) :
    ∃ i, decode w = .ok i :=
  ⟨mk (regOfField (rtField w)) (regOfField (rsField w)) (immField w),
    decode_eq_ok_iff.mpr ⟨(he ..).trans (encodeI_fields w _ (field_of_admits 26 6 h rfl)), hw ..⟩⟩

theorem exists_decode_of_branchRow (mk : RegisterId → RegisterId → BitVec 16 → Instr)
    (h : OpcodeRow.admits ⟨name, b, 0xFC000000⟩ w = true)
    (he : ∀ rs rt imm, encode (mk rs rt imm) = encodeImm (opField b) rt rs imm := by intros; rfl)
    (hw : ∀ a b c, (mk (regOfField a) (regOfField b) c).wellFormed = true := by intros; rfl) :
    ∃ i, decode w = .ok i :=
  exists_decode_of_immRow (fun rt rs imm => mk rs rt imm) h (fun _ _ _ => he ..) fun _ _ _ => hw ..

theorem exists_decode_of_threeRow (mk : RegisterId → RegisterId → RegisterId → Instr)
    (h : OpcodeRow.admits ⟨name, b, 0xFC0007FF⟩ w = true) (h0 : opField b = 0 := by rfl)
    (hs : shiftField b = 0 := by rfl)
    (he : ∀ rd rs rt, encode (mk rd rs rt) = encodeThree rd rs rt (funcField b) := by intros; rfl)
    (hw : ∀ a b c : BitVec 5, (mk (regOfField a) (regOfField b) (regOfField c)).wellFormed = true := by intros; rfl) :
    ∃ i, decode w = .ok i := by
  have hop : opField w = 0 := (field_of_admits 26 6 h rfl).trans h0
  have hsh : shiftField w = 0 := (field_of_admits 6 5 h rfl).trans hs
  have hf : funcField w = funcField b := field_of_admits 0 6 h rfl
  refine ⟨mk (regOfField (rdField w)) (regOfField (rsField w)) (regOfField (rtField w)),
    decode_eq_ok_iff.mpr ⟨?_, hw ..⟩⟩
  rw [he, ← hf, encodeThree, ← hsh]
  exact encodeR_fields w hop

theorem exists_decode_of_shiftRow (mk : RegisterId → RegisterId → BitVec 5 → Instr)
    (h : OpcodeRow.admits ⟨name, b, 0xFFE0003F⟩ w = true) (h0 : opField b = 0 := by rfl)
    (hs : rsField b = 0 := by rfl)
    (he : ∀ rd rt sa, encode (mk rd rt sa) = encodeShift rd rt sa (funcField b) := by intros; rfl)
    (hw : ∀ a b c, (mk (regOfField a) (regOfField b) c).wellFormed = true := by intros; rfl) :
    ∃ i, decode w = .ok i := by
  have hop : opField w = 0 := (field_of_admits 26 6 h rfl).trans h0
  have hrs : rsField w = 0 := (field_of_admits 21 5 h rfl).trans hs
  have hf : funcField w = funcField b := field_of_admits 0 6 h rfl
  refine ⟨mk (regOfField (rdField w)) (regOfField (rtField w)) (shiftField w), decode_eq_ok_iff.mpr ⟨?_, hw ..⟩⟩
  rw [he, ← hf, encodeShift, ← hrs]
  exact encodeR_fields w hop

theorem exists_decode_of_luiRow (h : OpcodeRow.admits ⟨name, 0x3C000000, 0xFFE00000⟩ w = true) :
    ∃ i, decode w = .ok i := by
  have hop : opField w = 0x0F := field_of_admits 26 6 h rfl
  have hrs : rsField w = 0 := field_of_admits 21 5 h rfl
  refine ⟨.lui (regOfField (rtField w)) (immField w), decode_eq_ok_iff.mpr ⟨?_, rfl⟩⟩
  rw [encode, ← hrs]
  exact encodeI_fields w _ hop

theorem exists_decode_of_jRow (h : OpcodeRow.admits ⟨name, 0x08000000, 0xFC000000⟩ w = true) :
    ∃ i, decode w = .ok i :=
  ⟨.j (targetField w), decode_eq_ok_iff.mpr ⟨encodeJ_fields w _ (field_of_admits 26 6 h rfl), rfl⟩⟩

theorem exists_decode_of_jrRow (h : OpcodeRow.admits ⟨name, 0x00000008, 0xFC1FFFFF⟩ w = true) :
    ∃ i, decode w = .ok i := by
  have hop : opField w = 0 := field_of_admits 26 6 h rfl
  have hrt : rtField w = 0 := field_of_admits 16 5 h rfl
  have hrd : rdField w = 0 := field_of_admits 11 5 h rfl
  have hsh : shiftField w = 0 := field_of_admits 6 5 h rfl
  have hf : funcField w = 0x08 := field_of_admits 0 6 h rfl
  refine ⟨.jr (regOfField (rsField w)), decode_eq_ok_iff.mpr ⟨?_, rfl⟩⟩
  have h := encodeR_fields w hop
  rw [hrt, hrd, hsh, hf] at h
  exact h

end

variable (w : InsWord)

theorem exists_decode_of_aluRow : ∀ r ∈ opcodeRowsAlu, r.admits w = true → ∃ i, decode w = .ok i := by
  simp only [opcodeRowsAlu, List.forall_mem_cons]
  exact ⟨exists_decode_of_luiRow, exists_decode_of_immRow .ori, exists_decode_of_immRow .daddiu,
    exists_decode_of_immRow .slti, exists_decode_of_immRow .sltiu, exists_decode_of_threeRow .or,
    exists_decode_of_threeRow .slt, exists_decode_of_threeRow .sltu, exists_decode_of_threeRow .daddu,
    exists_decode_of_threeRow .dsubu, nofun⟩

theorem exists_decode_of_shiftUnitRow : ∀ r ∈ opcodeRowsShift, r.admits w = true → ∃ i, decode w = .ok i := by
  simp only [opcodeRowsShift, List.forall_mem_cons]
  exact ⟨exists_decode_of_shiftRow .sll, exists_decode_of_shiftRow .srl, exists_decode_of_shiftRow .sra,
    exists_decode_of_shiftRow .dsll, exists_decode_of_shiftRow .dsrl, exists_decode_of_shiftRow .dsra,
    exists_decode_of_shiftRow .dsll32, exists_decode_of_shiftRow .dsrl32, exists_decode_of_shiftRow .dsra32,
    exists_decode_of_threeRow fun rd rs rt => .sllv rd rt rs, exists_decode_of_threeRow fun rd rs rt => .srlv rd rt rs,
    exists_decode_of_threeRow fun rd rs rt => .srav rd rt rs, exists_decode_of_threeRow fun rd rs rt => .dsllv rd rt rs,
    exists_decode_of_threeRow fun rd rs rt => .dsrlv rd rt rs, exists_decode_of_threeRow fun rd rs rt => .dsrav rd rt rs,
    nofun⟩

theorem exists_decode_of_memoryRow : ∀ r ∈ opcodeRowsMemory, r.admits w = true → ∃ i, decode w = .ok i := by
  simp only [opcodeRowsMemory, List.forall_mem_cons]
  exact ⟨exists_decode_of_immRow .lb, exists_decode_of_immRow .lbu, exists_decode_of_immRow .lh,
    exists_decode_of_immRow .lhu, exists_decode_of_immRow .lw, exists_decode_of_immRow .lwu,
    exists_decode_of_immRow .ld, exists_decode_of_immRow .sb, exists_decode_of_immRow .sh,
    exists_decode_of_immRow .sw, exists_decode_of_immRow .sd, nofun⟩

theorem exists_decode_of_transferRow : ∀ r ∈ opcodeRowsTransfer, r.admits w = true → ∃ i, decode w = .ok i := by
  simp only [opcodeRowsTransfer, List.forall_mem_cons]
  exact ⟨exists_decode_of_branchRow .beq, exists_decode_of_branchRow .bne, exists_decode_of_jRow,
    exists_decode_of_jrRow, nofun⟩

/-- R120: a word decodes exactly when a row of the table admits it. -/
theorem exists_decode_iff : (∃ i, decode w = .ok i) ↔ ∃ r ∈ opcodeTable, r.admits w = true := by
  constructor
  · rintro ⟨i, h⟩
    obtain ⟨r, hr, ha, -⟩ := exists_row_admits_encode i
    exact ⟨r, hr, (decode_eq_ok_iff.mp h).1 ▸ ha⟩
  · rintro ⟨r, hr, h⟩
    simp only [opcodeTable, List.mem_append] at hr
    obtain ((hr | hr) | hr) | hr := hr
    · exact exists_decode_of_aluRow w r hr h
    · exact exists_decode_of_shiftUnitRow w r hr h
    · exact exists_decode_of_memoryRow w r hr h
    · exact exists_decode_of_transferRow w r hr h

/-- R120: two rows differ in a bit that both masks cover. -/
theorem opcodeTable_bits_ne : opcodeTable.Pairwise fun r q => r.bits &&& q.mask ≠ q.bits &&& r.mask := by decide

theorem opcodeTable_disjoint : opcodeTable.Pairwise fun r q => ¬(r.admits w = true ∧ q.admits w = true) := by
  refine opcodeTable_bits_ne.imp ?_
  rintro r q hne ⟨hr, hq⟩
  simp only [OpcodeRow.admits, beq_iff_eq] at hr hq
  apply hne
  rw [← hr, ← hq, BitVec.and_assoc, BitVec.and_assoc, BitVec.and_comm r.mask]

/-! ### The operands of an instruction are fields of its word (R112) -/

theorem namedAt_of_field {w : InsWord} {lo : Nat} {r : RegisterId} (hr : r.isInteger = true)
    (h : w.extractLsb' lo 5 = r.field) : NamedAt w lo r := by
  rw [← regOfField_field hr, ← h]
  exact namedAt_regOfField w lo

section
variable {op func : BitVec 6} {rs rt rd : RegisterId} {sa : BitVec 5} {imm : BitVec 16}

theorem readFrom_encodeImm (hs : rs.isInteger = true) (ht : rt.isInteger = true) :
    NamedAt (encodeImm op rt rs imm) 21 rs ∧ NamedAt (encodeImm op rt rs imm) 16 rt ∧
      imm.toNat = (encodeImm op rt rs imm).toNat % 2 ^ 16 := by
  refine ⟨namedAt_of_field hs (rsField_encodeI ..), namedAt_of_field ht (rtField_encodeI ..), ?_⟩
  rw [← immField_toNat, encodeImm, immField_encodeI]

theorem readFrom_encodeThree (hd : rd.isInteger = true) (hs : rs.isInteger = true) (ht : rt.isInteger = true) :
    NamedAt (encodeThree rd rs rt func) 21 rs ∧ NamedAt (encodeThree rd rs rt func) 16 rt ∧
      NamedAt (encodeThree rd rs rt func) 11 rd :=
  ⟨namedAt_of_field hs (rsField_encodeR ..), namedAt_of_field ht (rtField_encodeR ..),
    namedAt_of_field hd (rdField_encodeR ..)⟩

theorem readFrom_encodeShift (hd : rd.isInteger = true) (ht : rt.isInteger = true) :
    NamedAt (encodeShift rd rt sa func) 16 rt ∧ NamedAt (encodeShift rd rt sa func) 11 rd ∧
      sa.toNat = (encodeShift rd rt sa func).toNat / 2 ^ 6 % 2 ^ 5 := by
  refine ⟨namedAt_of_field ht (rtField_encodeR ..), namedAt_of_field hd (rdField_encodeR ..), ?_⟩
  rw [← shiftField_toNat, encodeShift, shiftField_encodeR]

end

theorem readFrom_encode {i : Instr} (h : i.wellFormed = true) : ReadFrom (encode i) i := by
  cases i <;> simp only [Instr.wellFormed, Bool.and_eq_true] at h
  case lui =>
    refine ⟨namedAt_of_field h (rtField_encodeI ..), ?_⟩
    rw [← immField_toNat, encode, immField_encodeI]
  case ori | daddiu | slti | sltiu | lb | lbu | lh | lhu | lw | lwu | ld | sb | sh | sw | sd =>
    exact readFrom_encodeImm h.2 h.1
  case beq | bne => exact readFrom_encodeImm h.1 h.2
  case or | slt | sltu | daddu | dsubu => exact readFrom_encodeThree h.1.1 h.1.2 h.2
  case sllv | srlv | srav | dsllv | dsrlv | dsrav => exact readFrom_encodeThree h.1.1 h.2 h.1.2
  case sll | srl | sra | dsll | dsrl | dsra | dsll32 | dsrl32 | dsra32 => exact readFrom_encodeShift h.1 h.2
  case j target => rw [ReadFrom, ← targetField_toNat, encode, targetField_encodeJ]
  case jr => exact namedAt_of_field h (rsField_encodeR ..)

end Sys2Proof

namespace Sys2Proof.Safety

/-- Settles O4: rows that both match a word would agree where both masks cover; a row fixes the fields the decoder
tests; an instruction's word has its operands in their fields and the row of its mnemonic. -/
theorem decodeAgreesWithOpcodeTable : Obligations.DecodeAgreesWithOpcodeTable := by
  refine fun w => ⟨exists_decode_iff w, opcodeTable_disjoint w, fun i h => ?_⟩
  obtain ⟨rfl, hw⟩ := decode_eq_ok_iff.mp h
  exact ⟨readFrom_encode hw, exists_row_admits_encode i⟩

/-- Settles O1: the spec's example words, each fixed, are evaluated. -/
theorem specWordsDecode : Obligations.SpecWordsDecode := by
  unfold Obligations.SpecWordsDecode
  decide

end Sys2Proof.Safety
end

section
/-! SUPPORT. A step before the fills of its edge (R295): one function for both readings and the reset cycle, and what it
can answer. -/

namespace Sys2Proof.Safety

open Sys2Proof.Machine

/-- R272, R296, R259: what a step does before its fills are applied. -/
def beforeFills (s : State) : Host.Outcome State Fault Refusal :=
  if s.nextInputs.reset then .next s.popInputs.takeReset
  else
    match s.reading with
    | .cycle =>
      match runCycle s.popInputs with
      | .error e => e.outcome
      | .ok u => .next u
    | .instruction => runInstruction s.popInputs

theorem step_eq_finish (s : State) : step s = finish s.nextInputs (beforeFills s) := by
  unfold step beforeFills cycleStep instructionStep
  cases s.reading with
  | cycle =>
    cases s.nextInputs.reset with
    | true => rfl
    | false =>
      cases runCycle s.popInputs with
      | error e => cases e <;> rfl
      | ok u => rfl
  | instruction => cases s.nextInputs.reset <;> rfl

theorem finish_next {inp : Inputs} {o : Host.Outcome State Fault Refusal} {t : State} :
    finish inp o = .next t ↔ ∃ u, o = .next u ∧ t = u.applyFills inp := by
  cases o <;> simp [finish, eq_comm]

/-- R295: a step that goes on is what it does before the fills, then the fills. -/
theorem step_next_iff {s t : State} :
    step s = .next t ↔ ∃ u, beforeFills s = .next u ∧ t = u.applyFills s.nextInputs := by
  rw [step_eq_finish, finish_next]

/-- Everything a step can do before its fills: a reset cycle; a cycle; in the instruction-level reading a fetch miss or
an instruction. -/
theorem beforeFills_next {s u : State} (h : beforeFills s = .next u) :
    (s.nextInputs.reset = true ∧ u = s.popInputs.takeReset) ∨
    (s.nextInputs.reset = false ∧ s.wasReset = true ∧
      ((s.reading = .cycle ∧ ∃ g, evaluateStages s.popInputs = .ok g ∧ u = s.popInputs.commitCycle g) ∨
       (s.reading = .instruction ∧ s.fetch = .ok none ∧ u = s.popInputs.stalled .instructionCacheBusy) ∨
       (s.reading = .instruction ∧
          ∃ w i, s.fetch = .ok (some w) ∧ decode w = .ok i ∧ exec i s.popInputs = .next u))) := by
  unfold beforeFills at h
  split at h
  case isTrue hr =>
    cases h
    exact .inl ⟨hr, rfl⟩
  case isFalse hr =>
    refine .inr ⟨by simpa using hr, ?_⟩
    split at h
    next hc =>
      unfold runCycle at h
      by_cases hw : s.wasReset = true
      · cases he : evaluateStages s.popInputs with
        | error e => simp [hw, he, Stop.outcome_ne_next] at h
        | ok g =>
          simp only [State.popInputs_wasReset, hw, he, if_true] at h
          cases h
          exact ⟨hw, .inl ⟨hc, g, rfl, rfl⟩⟩
      · simp [hw, Stop.outcome] at h
    next hi =>
      unfold runInstruction at h
      by_cases hw : s.wasReset = true
      · simp only [State.popInputs_wasReset, hw, if_true] at h
        cases hf : s.popInputs.fetch with
        | error e => simp [hf, Stop.outcome_ne_next] at h
        | ok o =>
          cases o with
          | none =>
            simp only [hf] at h
            cases h
            exact ⟨hw, .inr (.inl ⟨hi, hf, rfl⟩)⟩
          | some w =>
            simp only [hf, runWord] at h
            cases hd : decode w with
            | error e => simp [hd] at h
            | ok i =>
              simp only [hd] at h
              exact ⟨hw, .inr (.inr ⟨hi, w, i, hf, hd, h⟩)⟩
      · simp [hw] at h

/-- R76, R77: what a step does before its fills does not depend on them. -/
theorem beforeFills_withoutFills (s : State) : beforeFills (withoutFills s) = beforeFills s := rfl

theorem step_withoutFills {s u : State} : step (withoutFills s) = .next u ↔ beforeFills s = .next u := by
  rw [step_next_iff, beforeFills_withoutFills]
  constructor
  · rintro ⟨u', h, rfl⟩
    exact h
  · intro h
    exact ⟨u, h, rfl⟩

/-- R7, R96, R270: what no step changes before its fills. -/
theorem beforeFills_kept {s u : State} (h : beforeFills s = .next u) :
    u.cfg = s.cfg ∧ u.reading = s.reading ∧ u.inputs = s.inputs.tail ∧ u.ic = s.ic := by
  obtain ⟨-, rfl⟩ | ⟨-, -, ⟨-, g, -, rfl⟩ | ⟨-, -, rfl⟩ | ⟨-, w, i, -, -, hx⟩⟩ := beforeFills_next h
  · exact ⟨rfl, rfl, rfl, rfl⟩
  · obtain ⟨hcfg, hreading, hinputs, hic, -⟩ := State.commitCycle_kept s.popInputs g
    exact ⟨hcfg, hreading, hinputs, hic⟩
  · exact ⟨rfl, rfl, rfl, rfl⟩
  · obtain ⟨hcfg, hreading, hinputs, hic, -⟩ := exec_kept hx
    exact ⟨hcfg, hreading, hinputs, hic⟩

/-- R81, R295: before its fills a step changes the DCache by at most one store, to a valid line, and the busy flag says
whether a write is shown. -/
theorem beforeFills_store {s u : State} (h : beforeFills s = .next u) :
    (∃ e : StoreEffect, u.dc = (s.applyStore e).dc ∧ ∀ c, e.commit = some c → (s.dline c.index).valid = true) ∧
      u.dcBusy = u.dcwrite.isSome := by
  have keeps {u : State} (hu : u.dc = s.dc) :
      ∃ e : StoreEffect, u.dc = (s.applyStore e).dc ∧ ∀ c, e.commit = some c → (s.dline c.index).valid = true :=
    ⟨StoreEffect.none, hu, nofun⟩
  have busy (v : State) (e : StoreEffect) (hb : v.dcBusy = false) (hw : v.dcwrite = none) :
      (v.applyStore e).dcBusy = (v.applyStore e).dcwrite.isSome := by
    cases hc : e.commit <;> simp [hc, hb, hw]
  obtain ⟨-, rfl⟩ | ⟨-, -, ⟨-, g, hg, rfl⟩ | ⟨-, -, rfl⟩ | ⟨-, w, i, -, -, hx⟩⟩ := beforeFills_next h
  · exact ⟨keeps rfl, rfl⟩
  · obtain ⟨-, -, hm, -⟩ := evaluateStages_ok hg
    rcases State.commitCycle_cases s.popInputs g with ⟨-, hu⟩ | ⟨-, hu⟩ | ⟨r, -, -, hu⟩
    · rw [hu]
      exact ⟨⟨g.memory.store, applyStore_dc_congr (by simp [State.commitFrontEnd]) _, memoryStage_store_valid hm⟩,
        busy _ _ (by simp) (by simp)⟩
    · rw [hu]
      exact ⟨⟨g.memory.store, applyStore_dc_congr (by simp) _, memoryStage_store_valid hm⟩,
        busy _ _ (by simp) (by simp)⟩
    · rw [hu]
      exact ⟨keeps rfl, rfl⟩
  · exact ⟨keeps rfl, rfl⟩
  · rcases exec_next hx with ⟨r, v, -, rfl⟩ | ⟨n, v, e, -, he, rfl⟩ | ⟨-, -, rfl⟩ | ⟨-, r, rfl⟩
    · exact ⟨keeps (by simp), by simp⟩
    · exact ⟨⟨e, applyStore_dc_congr (by simp) _, State.memWrite_valid he⟩, busy _ _ (by simp) (by simp)⟩
    · exact ⟨keeps (by simp), by simp⟩
    · exact ⟨keeps (by simp), by simp⟩

end Sys2Proof.Safety
end

section
/-! What every step does with its inputs and its fills. -/

namespace Sys2Proof.Safety

open Sys2Proof.Machine

/-- Settles O22: the step without fills, then the fills. -/
theorem fillsActAtTheEdge : Obligations.FillsActAtTheEdge := by
  intro s t
  simp only [step_withoutFills]
  exact step_next_iff

/-- Settles O23: nothing but the fill of the edge touches the ICache; the rest is kept before the fills. -/
theorem stepsLeaveCodeAndParameters : Obligations.StepsLeaveCodeAndParameters := by
  intro s t h
  obtain ⟨u, hu, rfl⟩ := step_next_iff.mp h
  obtain ⟨hcfg, hreading, hinputs, hic⟩ := beforeFills_kept hu
  exact ⟨by rw [State.applyFills_ic, hic], hcfg, hreading, hinputs⟩

/-- Settles O21: the fill is the last to write its line; the other lines and the outputs are those of the step without
fills. -/
theorem fillInstallsLine : Obligations.FillInstallsLine := by
  intro s t hi hd h
  obtain ⟨u, hu, rfl⟩ := step_next_iff.mp h
  obtain ⟨-, -, -, hic⟩ := beforeFills_kept hu
  obtain ⟨⟨e, hdc, -⟩, -⟩ := beforeFills_store hu
  have hwf : Memory.wf DLine.absent u.dc := hdc ▸ wf_applyStore_dc hd e
  refine ⟨fun f hf => ⟨iline_applyFills_same (hic ▸ hi) hf, fun k hk => ?_⟩,
    fun f hf => ⟨dline_applyFills_same hwf hf, u, step_withoutFills.mpr hu, rfl, rfl, fun k hk => ?_⟩⟩
  · refine step_iline_of_not_filled hi h fun f' hf' => ?_
    rw [hf] at hf'
    cases hf'
    exact hk.symm
  · refine State.dline_applyFills hwf fun f' hf' => ?_
    rw [hf] at hf'
    cases hf'
    exact hk.symm

end Sys2Proof.Safety
end

section
/-! SUPPORT. What a step does to the records of its instructions in flight and to the registers. -/

namespace Sys2Proof.Safety

open Sys2Proof.Machine

/-! ### Records -/

/-- R22, R291: the stage registers after a commit, by status. -/
theorem commitCycle_stages (s : State) (g : Stages) :
    (g.status = .ok ∧ (s.commitCycle g).fd = g.fetch ∧ (s.commitCycle g).dx = g.decode.next ∧
      (s.commitCycle g).xm = g.execute.next ∧ (s.commitCycle g).mw = g.memory.next) ∨
    (g.status = .stall .loadInterlock ∧ (s.commitCycle g).fd = s.fd ∧ (s.commitCycle g).dx = none ∧
      (s.commitCycle g).xm = g.execute.next ∧ (s.commitCycle g).mw = g.memory.next) ∨
    ((∃ r, r ≠ .loadInterlock ∧ g.status = .stall r) ∧ (s.commitCycle g).fd = s.fd ∧ (s.commitCycle g).dx = s.dx ∧
      (s.commitCycle g).xm = s.xm ∧ (s.commitCycle g).mw = s.mw) := by
  rcases State.commitCycle_cases s g with ⟨hg, h⟩ | ⟨hg, h⟩ | ⟨r, hr, hg, h⟩
  · exact .inl ⟨hg, by simp [h, State.commitBackEnd, State.commitFrontEnd]⟩
  · exact .inr (.inl ⟨hg, by simp [h, State.commitBackEnd]⟩)
  · exact .inr (.inr ⟨⟨r, hr, hg⟩, by simp [h]⟩)

/-- R36, R274, R280, R281, R287: each record in flight in `t` is the same as in `s`, or comes from the record one place
before it, or from the fetch at an aligned `pc`. -/
structure RecordsFrom (s t : State) : Prop where
  fd : ∀ r, t.fd = some r → s.fd = some r ∨ r.pc = s.pc ∧ s.pc.toNat % 4 = 0
  dx : ∀ r, t.dx = some r → s.dx = some r ∨
    ∃ f, s.fd = some f ∧ r.pc = f.pc ∧ decode f.word = .ok r.ins ∧ (r.taken = true → isTransfer r.ins = true)
  xm : ∀ r, t.xm = some r → s.xm = some r ∨ ∃ q, s.dx = some q ∧ r = executed q
  mw : ∀ r, t.mw = some r → s.mw = some r ∨
    ∃ q, s.xm = some q ∧ r.pc = q.pc ∧ r.ins = q.ins ∧ (r.dest = none ∨ r.dest = Config.dest s.cfg r.ins)

theorem RecordsFrom.of_eq {s t : State} (hfd : t.fd = s.fd) (hdx : t.dx = s.dx) (hxm : t.xm = s.xm) (hmw : t.mw = s.mw) :
    RecordsFrom s t :=
  ⟨fun _ h => .inl (hfd ▸ h), fun _ h => .inl (hdx ▸ h), fun _ h => .inl (hxm ▸ h), fun _ h => .inl (hmw ▸ h)⟩

theorem RecordsFrom.of_none {s t : State} (hfd : t.fd = none) (hdx : t.dx = none) (hxm : t.xm = none)
    (hmw : t.mw = none) : RecordsFrom s t := by
  constructor <;> simp [hfd, hdx, hxm, hmw]

theorem recordsFrom_commitCycle {s : State} {g : Stages} (hg : evaluateStages s = .ok g) :
    RecordsFrom s (s.commitCycle g) := by
  obtain ⟨-, hx, hm, -, hf⟩ := evaluateStages_ok hg
  have fetched (r) (h : g.fetch = some r) : r.pc = s.pc ∧ s.pc.toNat % 4 = 0 := by
    obtain ⟨ha, ⟨-, h'⟩ | ⟨-, h'⟩⟩ := fetchStage_ok hf <;> rw [h'] at h <;> cases h
    exact ⟨rfl, ha⟩
  have executedFrom (r) (h : g.execute.next = some r) : ∃ q, s.dx = some q ∧ r = executed q := by
    rw [hx, executeStage_next] at h
    obtain ⟨q, hq, rfl⟩ := Option.map_eq_some_iff.mp h
    exact ⟨q, hq, rfl⟩
  rcases commitCycle_stages s g with ⟨-, hfd, hdx, hxm, hmw⟩ | ⟨-, hfd, hdx, hxm, hmw⟩ | ⟨-, hfd, hdx, hxm, hmw⟩
  · exact ⟨fun r h => .inr (fetched r (hfd ▸ h)), fun r h => .inr (decode_next hg r (hdx ▸ h)),
      fun r h => .inr (executedFrom r (hxm ▸ h)), fun r h => .inr (memoryStage_next hm r (hmw ▸ h))⟩
  · refine ⟨fun r h => .inl (hfd ▸ h), fun r h => ?_, fun r h => .inr (executedFrom r (hxm ▸ h)),
      fun r h => .inr (memoryStage_next hm r (hmw ▸ h))⟩
    rw [hdx] at h
    cases h
  · exact .of_eq hfd hdx hxm hmw

/-- R36: where the records of any step come from. -/
theorem recordsFrom_step {s t : State} (h : step s = .next t) : RecordsFrom s t := by
  obtain ⟨u, hu, rfl⟩ := step_next_iff.mp h
  suffices hr : RecordsFrom s u from ⟨hr.fd, hr.dx, hr.xm, hr.mw⟩
  obtain ⟨-, rfl⟩ | ⟨-, -, ⟨-, g, hg, rfl⟩ | ⟨-, -, rfl⟩ | ⟨-, w, i, -, -, hx⟩⟩ := beforeFills_next hu
  · exact .of_none rfl rfl rfl rfl
  · obtain ⟨hfd, hdx, hxm, hmw⟩ := recordsFrom_commitCycle hg
    exact ⟨hfd, hdx, hxm, hmw⟩
  · exact .of_eq rfl rfl rfl rfl
  · obtain ⟨-, -, -, -, -, hfd, hdx, hxm, hmw⟩ := exec_kept hx
    exact .of_eq hfd hdx hxm hmw

/-- R31, R274: a step keeps the property of its instructions in flight. -/
theorem inFlightOk_step {s t : State} (hs : InFlightOk s) (h : step s = .next t) : InFlightOk t := by
  have hcfg : t.cfg = s.cfg := (stepsLeaveCodeAndParameters s t h).2.1
  obtain ⟨-, hdx, hxm, hmw⟩ := recordsFrom_step h
  refine ⟨fun r hr => ?_, fun r hr => ?_, fun r hr => ?_⟩
  · rcases hdx r hr with hr | ⟨f, -, -, hdec, -⟩
    · exact hs.dx r hr
    · exact wellFormed_of_decode hdec
  · rcases hxm r hr with hr | ⟨q, hq, rfl⟩
    · exact hs.xm r hr
    · exact hs.dx q hq
  · rw [hcfg]
    rcases hmw r hr with hr | ⟨q, hq, -, hins, hdest⟩
    · exact hs.mw r hr
    · exact ⟨hins ▸ hs.xm q hq, hdest⟩

/-! ### Registers -/

/-- R26, R294: a commit writes the register of Writeback, in an `Ok` or `LoadInterlock` cycle, or none. -/
theorem commitCycle_rf (s : State) (g : Stages) :
    ((g.status = .ok ∨ g.status = .stall .loadInterlock) ∧ (s.commitCycle g).rf = (s.writeBack g.write).rf) ∨
    ((∃ r, r ≠ .loadInterlock ∧ g.status = .stall r) ∧ (s.commitCycle g).rf = s.rf) := by
  rcases State.commitCycle_cases s g with ⟨hg, h⟩ | ⟨hg, h⟩ | ⟨r, hr, hg, h⟩
  · refine .inl ⟨.inl hg, ?_⟩
    simp [h, State.commitBackEnd, writeBack_rf_congr (s := s), State.commitFrontEnd]
  · refine .inl ⟨.inr hg, ?_⟩
    simp [h, State.commitBackEnd, writeBack_rf_congr (s := s)]
  · exact .inr ⟨⟨r, hr, hg⟩, by simp [h]⟩

theorem writebackStage_some {s : State} {d : RegisterId} {v : Word} :
    writebackStage s = some (d, v) ↔ ∃ r, s.mw = some r ∧ r.dest = some d ∧ r.value = v := by
  unfold writebackStage
  cases hm : s.mw with
  | none => simp
  | some r => cases hd : r.dest <;> simp [hd]

/-- R26, R273: what Writeback does, at every register. -/
theorem reg_writeBack (s : State) (w : Option (RegisterId × Word)) (q : RegisterId) :
    (s.writeBack w).reg q = (offers w q).getD (s.reg q) := by
  rcases w with _ | ⟨d, v⟩
  · rfl
  · by_cases h : q = d
    · simp [offers, h]
    · simp [State.reg_setReg, offers, h, Ne.symm h]

/-! ### Integer registers -/

open Laws.IntegerRegisters in
/-- R31, R114: a well-formed instruction reads and writes `Integer` registers only. -/
theorem integerRegisters : ∀ i : Instr, Laws.IntegerRegisters.Statement i
  | .lui _ _ => lui _ _ | .ori _ _ _ => ori _ _ _ | .daddiu _ _ _ => daddiu _ _ _ | .slti _ _ _ => slti _ _ _
  | .sltiu _ _ _ => sltiu _ _ _ | .or _ _ _ => Laws.IntegerRegisters.or _ _ _ | .slt _ _ _ => slt _ _ _
  | .sltu _ _ _ => sltu _ _ _ | .daddu _ _ _ => daddu _ _ _ | .dsubu _ _ _ => dsubu _ _ _ | .sll _ _ _ => sll _ _ _
  | .srl _ _ _ => srl _ _ _ | .sra _ _ _ => sra _ _ _ | .dsll _ _ _ => dsll _ _ _ | .dsrl _ _ _ => dsrl _ _ _
  | .dsra _ _ _ => dsra _ _ _ | .dsll32 _ _ _ => dsll32 _ _ _ | .dsrl32 _ _ _ => dsrl32 _ _ _
  | .dsra32 _ _ _ => dsra32 _ _ _ | .sllv _ _ _ => sllv _ _ _ | .srlv _ _ _ => srlv _ _ _ | .srav _ _ _ => srav _ _ _
  | .dsllv _ _ _ => dsllv _ _ _ | .dsrlv _ _ _ => dsrlv _ _ _ | .dsrav _ _ _ => dsrav _ _ _ | .lb _ _ _ => lb _ _ _
  | .lbu _ _ _ => lbu _ _ _ | .lh _ _ _ => lh _ _ _ | .lhu _ _ _ => lhu _ _ _ | .lw _ _ _ => lw _ _ _
  | .lwu _ _ _ => lwu _ _ _ | .ld _ _ _ => ld _ _ _ | .sb _ _ _ => sb _ _ _ | .sh _ _ _ => sh _ _ _
  | .sw _ _ _ => sw _ _ _ | .sd _ _ _ => sd _ _ _ | .beq _ _ _ => beq _ _ _ | .bne _ _ _ => bne _ _ _ | .j _ => j _
  | .jr _ => jr _

theorem isInteger_of_destField {i : Instr} (h : i.wellFormed = true) {r : RegisterId} (hr : destField i = some r) :
    r.isInteger = true := (integerRegisters i h).2 r hr

/-- R29, R274: the destination of an instruction is its destination field, or none. -/
theorem dest_eq_some {c : Config} {i : Instr} {r : RegisterId} :
    Config.dest c i = some r ↔ destField i = some r ∧ Config.isZeroRegister c r = false := by
  unfold Config.dest Config.realDest
  cases destField i with
  | none => simp
  | some d =>
    by_cases hz : Config.isZeroRegister c d = true
    · simp only [hz, if_true, reduceCtorEq, Option.some.injEq, false_iff, not_and, Bool.not_eq_false]
      rintro rfl
      exact hz
    · simp only [hz, Bool.false_eq_true, if_false, Option.some.injEq, iff_self_and]
      rintro rfl
      simpa using hz

/-- R29: two registers the hardwired zero register is none of. -/
theorem not_isZeroRegister_float (c : Config) (n : Fin 32) : Config.isZeroRegister c (.float n) = false := by
  simp [Config.isZeroRegister]

/-- R31: the write of Writeback is to an `Integer` register. -/
theorem offers_writebackStage_float {s : State} (hs : InFlightOk s) (n : Fin 32) :
    offers (writebackStage s) (.float n) = none := by
  cases hw : writebackStage s with
  | none => rfl
  | some w =>
    obtain ⟨d, v⟩ := w
    obtain ⟨r, hr, hd, -⟩ := writebackStage_some.mp hw
    obtain ⟨hwf, hn | hdest⟩ := hs.mw r hr
    · rw [hn] at hd
      cases hd
    · have hint := isInteger_of_destField hwf (dest_eq_some.mp (hdest.symm.trans hd)).1
      have hne : d ≠ .float n := by
        rintro rfl
        cases hint
      simp [offers, hne]

/-- R31: no step changes a `Float` register. -/
theorem reg_float_step {s t : State} (hs : InFlightOk s) (h : step s = .next t) (n : Fin 32) :
    t.reg (.float n) = s.reg (.float n) := by
  obtain ⟨u, hu, rfl⟩ := step_next_iff.mp h
  rw [State.reg_congr (State.applyFills_rf ..)]
  obtain ⟨-, rfl⟩ | ⟨-, -, ⟨-, g, hg, rfl⟩ | ⟨-, -, rfl⟩ | ⟨-, w, i, -, hdec, hx⟩⟩ := beforeFills_next hu
  · rfl
  · obtain ⟨hw, -⟩ := evaluateStages_ok hg
    rcases commitCycle_rf s.popInputs g with ⟨-, hrf⟩ | ⟨-, hrf⟩
    · rw [State.reg_congr hrf, reg_writeBack, hw]
      exact congrArg (Option.getD · _) (offers_writebackStage_float hs n)
    · exact State.reg_congr hrf _
  · rfl
  · rcases exec_next hx with ⟨r, v, hr, rfl⟩ | ⟨m, v, e, -, -, rfl⟩ | ⟨-, -, rfl⟩ | ⟨-, r, rfl⟩
    · have hint := isInteger_of_destField (wellFormed_of_decode hdec) hr
      have hne : RegisterId.float n ≠ r := by
        rintro rfl
        cases hint
      rw [State.reg_congr (State.retire_rf ..), State.reg_writeX, if_neg fun hq => hne hq.1]
      rfl
    · exact State.reg_congr (by simp) _
    · exact State.reg_congr (by simp) _
    · rfl

end Sys2Proof.Safety
end

section
/-! The invariants of a step. -/

namespace Sys2Proof.Safety

open Sys2Proof.Machine

/-- Settles O18: what decodes is well-formed; Writeback and exec write the destination of such an instruction. -/
theorem floatRegistersNeverChange : Obligations.FloatRegistersNeverChange := by
  refine ⟨fun w i h => integerRegisters i (wellFormed_of_decode h),
    fun s t hs h => ⟨inFlightOk_step hs h, reg_float_step hs h⟩, fun isFloat n hn => ?_⟩
  exact dif_neg (Nat.not_lt.mpr hn)

/-- R47: the fills of the coming step are in range if all fills to come are. -/
theorem nextInputs_cases (s : State) : s.nextInputs = Inputs.quiet ∨ s.nextInputs ∈ s.inputs := by
  unfold State.nextInputs
  cases s.inputs <;> simp

/-- R35: a fill in range lists a line in range. -/
theorem lineInRange_fill {bits : Nat} {inp : Option Fill} (h : fillInRange bits inp) {f : Fill} (hf : inp = some f) :
    lineInRange bits f.index f.tag true :=
  ⟨(h f hf).1, (h f hf).2, rfl⟩

theorem icLines_fill {bits : Nat} {ic : Memory ILine} {inp : Option Fill}
    (hic : ∀ e ∈ ic, lineInRange bits e.1 e.2.tag e.2.valid) (h : fillInRange bits inp) :
    ∀ e ∈ fillICache ic inp, lineInRange bits e.1 e.2.tag e.2.valid := by
  intro e he
  cases hf : inp with
  | none => exact hic e (by simpa [fillICache, hf] using he)
  | some f =>
    rw [hf] at he
    rcases Memory.mem_set he with rfl | he
    · exact lineInRange_fill h hf
    · exact hic e he

theorem dcLines_fill {bits : Nat} {dc : Memory DLine} {inp : Option Fill}
    (hdc : ∀ e ∈ dc, lineInRange bits e.1 e.2.tag e.2.valid) (h : fillInRange bits inp) :
    ∀ e ∈ fillDCache dc inp, lineInRange bits e.1 e.2.tag e.2.valid := by
  intro e he
  cases hf : inp with
  | none => exact hdc e (by simpa [fillDCache, hf] using he)
  | some f =>
    rw [hf] at he
    rcases Memory.mem_set he with rfl | he
    · exact lineInRange_fill h hf
    · exact hdc e he

/-- R81, R97: a store to a valid line changes neither its tag nor its valid bit. -/
theorem dcLines_store {bits : Nat} {s : State} (hdc : ∀ e ∈ s.dc, lineInRange bits e.1 e.2.tag e.2.valid)
    (st : StoreEffect) (hv : ∀ c, st.commit = some c → (s.dline c.index).valid = true) :
    ∀ e ∈ (s.applyStore st).dc, lineInRange bits e.1 e.2.tag e.2.valid := by
  intro e he
  rw [State.applyStore_dc] at he
  cases hc : st.commit with
  | none => exact hdc e (by simpa [hc] using he)
  | some c =>
    rw [hc, State.commitStore_some_dc] at he
    rcases Memory.mem_set he with rfl | he
    · have hline := hdc _ (s.dline_mem c.index (hv c hc))
      exact hline
    · exact hdc e he

theorem wf_fillICache {ic : Memory ILine} (h : Memory.wf ILine.absent ic) (inp : Option Fill) :
    Memory.wf ILine.absent (fillICache ic inp) := by
  cases inp with
  | none => exact h
  | some f => exact Memory.wf_set h _ _

theorem wf_fillDCache {dc : Memory DLine} (h : Memory.wf DLine.absent dc) (inp : Option Fill) :
    Memory.wf DLine.absent (fillDCache dc inp) := by
  cases inp with
  | none => exact h
  | some f => exact Memory.wf_set h _ _

/-- Settles O59: each part of the invariant from what the step does before its fills and from the fills themselves. -/
theorem stepKeepsInvariant : Obligations.StepKeepsInvariant := by
  intro s t hs h
  obtain ⟨hfd, hdx, hxm, hmw⟩ := recordsFrom_step h
  have hflight := inFlightOk_step hs.inFlight h
  obtain ⟨hict, hcfg, -, hinputs⟩ := stepsLeaveCodeAndParameters s t h
  obtain ⟨u, hu, rfl⟩ := step_next_iff.mp h
  obtain ⟨⟨e, hdc, hvalid⟩, hbusy⟩ := beforeFills_store hu
  have hifill : fillInRange s.cfg.iidxBits s.nextInputs.ifill := by
    rcases nextInputs_cases s with hq | hm
    · rw [hq]
      exact nofun
    · exact hs.ifills _ hm
  have hdfill : fillInRange s.cfg.didxBits s.nextInputs.dfill := by
    rcases nextInputs_cases s with hq | hm
    · rw [hq]
      exact nofun
    · exact hs.dfills _ hm
  exact
    { legal := hcfg ▸ hs.legal
      icForm := hict ▸ wf_fillICache hs.icForm _
      dcForm := wf_fillDCache (hdc ▸ wf_applyStore_dc hs.dcForm e) _
      icLines := by
        rw [hict, hcfg]
        exact icLines_fill hs.icLines hifill
      dcLines := by
        rw [hcfg]
        exact dcLines_fill (hdc ▸ dcLines_store hs.dcLines e hvalid) hdfill
      ifills := fun inp hi => hcfg ▸ hs.ifills inp (List.mem_of_mem_tail (hinputs ▸ hi))
      dfills := fun inp hi => hcfg ▸ hs.dfills inp (List.mem_of_mem_tail (hinputs ▸ hi))
      inFlight := hflight
      fdAligned := fun r hr => (hfd r hr).elim (hs.fdAligned r) fun ⟨hpc, ha⟩ => hpc ▸ ha
      dxAligned := fun r hr =>
        (hdx r hr).elim (hs.dxAligned r) fun ⟨f, hf, hpc, _⟩ => hpc ▸ hs.fdAligned f hf
      xmAligned := fun r hr =>
        (hxm r hr).elim (hs.xmAligned r) fun ⟨q, hq, hr⟩ => hr ▸ hs.dxAligned q hq
      mwAligned := fun r hr =>
        (hmw r hr).elim (hs.mwAligned r) fun ⟨q, hq, hpc, _⟩ => hpc ▸ hs.xmAligned q hq
      takenIsTransfer := fun r hr =>
        (hdx r hr).elim (hs.takenIsTransfer r) fun ⟨_, _, _, _, ht⟩ => ht
      busyIsWrite := hbusy }

/-- Settles O60: at reset nothing is listed, pending or in flight. -/
theorem resetMeetsInvariant : Obligations.ResetMeetsInvariant :=
  { legal := by decide
    icForm := by decide
    dcForm := by decide
    icLines := fun _ h => absurd h List.not_mem_nil
    dcLines := fun _ h => absurd h List.not_mem_nil
    ifills := fun _ h => absurd h List.not_mem_nil
    dfills := fun _ h => absurd h List.not_mem_nil
    inFlight := by constructor <;> simp [State.reset]
    fdAligned := fun _ h => nomatch h
    dxAligned := fun _ h => nomatch h
    xmAligned := fun _ h => nomatch h
    mwAligned := fun _ h => nomatch h
    takenIsTransfer := fun _ h => nomatch h
    busyIsWrite := rfl }

end Sys2Proof.Safety
end

section
/-! SUPPORT. A cycle without reset from its stages: the stop of the oldest stage that stops, or the commit. -/

namespace Sys2Proof.Safety

open Sys2Proof.Machine

theorem evaluateStages_popInputs (s : State) : evaluateStages s.popInputs = evaluateStages s := rfl

section
variable {s : State} {m : MemoryResult}

theorem evaluateStages_decode_stop {e : Stop} (hm : memoryStage s = .ok m)
    (hd : decodeUnlessStalled s (executeStage s) m (writebackStage s) = .error e) : evaluateStages s = .error e := by
  simp [evaluateStages, hm, hd]

theorem evaluateStages_fetch_stop {d : DecodeResult} {e : Stop} (hm : memoryStage s = .ok m)
    (hd : decodeUnlessStalled s (executeStage s) m (writebackStage s) = .ok d) (hf : fetchStage s = .error e) :
    evaluateStages s = .error e := by
  simp [evaluateStages, hm, hd, hf]

theorem evaluateStages_of_ok {d : DecodeResult} {f : Option FetchDecode} (hm : memoryStage s = .ok m)
    (hd : decodeUnlessStalled s (executeStage s) m (writebackStage s) = .ok d) (hf : fetchStage s = .ok f) :
    evaluateStages s =
      .ok { write := writebackStage s, memory := m, execute := executeStage s, decode := d, fetch := f } := by
  simp [evaluateStages, hm, hd, hf]

end

section
variable {s : State} (hr : s.reading = .cycle) (hw : s.wasReset = true) (hn : s.nextInputs.reset = false)
include hr hw hn

theorem step_cycle_stop {e : Stop} (h : evaluateStages s = .error e) : step s = e.outcome := by
  rw [step_cycle_stages hr hn hw, evaluateStages_popInputs, h]

theorem step_cycle_commit {g : Stages} (h : evaluateStages s = .ok g) :
    step s = .next ((s.popInputs.commitCycle g).applyFills s.nextInputs) := by
  rw [step_cycle_stages hr hn hw, evaluateStages_popInputs, h]

end

theorem decodeUnlessStalled_of_no_stall {s : State} {x : ExecuteResult} {m : MemoryResult}
    {w : Option (RegisterId × Word)} (h : m.stall = none) : decodeUnlessStalled s x m w = decodeStage s x m w := by
  simp [decodeUnlessStalled, h]

theorem decodeUnlessStalled_of_stall {s : State} {x : ExecuteResult} {m : MemoryResult}
    {w : Option (RegisterId × Word)} {r : StallReason} (h : m.stall = some r) :
    decodeUnlessStalled s x m w = .ok DecodeResult.empty := by
  simp [decodeUnlessStalled, h]

theorem fetchStage_misaligned {s : State} (h : s.pc.toNat % 4 ≠ 0) :
    fetchStage s = .error (.fault .misalignedPc) := by
  simp [fetchStage, State.fetch, h]

theorem fetch_misaligned {s : State} (h : s.pc.toNat % 4 ≠ 0) : s.fetch = .error (.fault .misalignedPc) := by
  simp [State.fetch, h]

/-- R122, R257: every control transfer is its redirection. -/
theorem exec_of_isTransfer {i : Instr} (h : isTransfer i = true) (s : State) :
    exec i s = s.branch (redirectOf s.pc s.x i) := by
  rw [exec_eq_tableEffect]
  cases i
  case beq | bne | j | jr => rfl
  all_goals cases h

end Sys2Proof.Safety
end

section
/-! Reset, and the steps that stop. -/

namespace Sys2Proof.Safety

open Sys2Proof.Machine

/-- Settles O41: the reset state is written out; every line of an empty cache is the unlisted one. -/
theorem resetStateValues : Obligations.ResetStateValues :=
  ⟨rfl, by decide, rfl, rfl, rfl, rfl, rfl, rfl, rfl, rfl, fun _ => rfl, fun _ => rfl⟩

theorem applyFills_of_none {inp : Inputs} (hi : inp.ifill = none) (hd : inp.dfill = none) (u : State) :
    u.applyFills inp = u := by
  simp [State.applyFills, hi, hd, fillICache, fillDCache]

theorem step_reset {s : State} (h : s.nextInputs.reset = true) :
    step s = .next (s.popInputs.takeReset.applyFills s.nextInputs) :=
  step_next_iff.mpr ⟨_, by simp [beforeFills, h], rfl⟩

/-- Settles O42: the state a reset cycle leaves is written out; resetting it again writes what is there. -/
theorem resetCycle : Obligations.ResetCycle := by
  intro s h
  refine ⟨_, step_reset h, rfl, rfl, rfl, rfl, rfl, rfl, rfl, rfl, rfl, rfl, rfl, rfl, fun _ => rfl, rfl, rfl, ?_⟩
  intro hr hi hd
  rw [step_reset hr, applyFills_of_none hi hd]
  rfl

/-- Settles O43: both readings test for the first reset before anything else. -/
theorem stepNeedsReset : Obligations.StepNeedsReset := by
  intro s hw
  refine ⟨fun hn => ?_, fun hn => ⟨_, step_reset hn, rfl⟩⟩
  rw [step_eq_finish]
  cases hr : s.reading <;> simp [beforeFills, hn, hr, runCycle, runInstruction, hw, Stop.outcome, finish]

/-- Settles O44: Fetch is evaluated in every step without reset, after Memory and Decode. -/
theorem misalignedPcStops : Obligations.MisalignedPcStops := by
  intro s hpc hn
  refine ⟨fun t ht => ?_, fun hw hr => ?_, fun hw hr m d hm hd => ?_⟩
  · obtain ⟨u, hu, -⟩ := step_next_iff.mp ht
    obtain ⟨hr, -⟩ | ⟨-, -, ⟨-, g, hg, -⟩ | ⟨-, hf, -⟩ | ⟨-, w, i, hf, -⟩⟩ := beforeFills_next hu
    · simp [hn] at hr
    · obtain ⟨-, -, -, -, hf⟩ := evaluateStages_ok hg
      exact hpc (fetchStage_ok hf).1
    · simp [fetch_misaligned hpc] at hf
    · simp [fetch_misaligned hpc] at hf
  · have hf : s.popInputs.fetch = .error (.fault .misalignedPc) := fetch_misaligned hpc
    rw [step_eq_finish]
    simp [beforeFills, hn, hr, runInstruction, hw, hf, Stop.outcome, finish]
  · exact step_cycle_stop hr hw hn (evaluateStages_fetch_stop hm hd (fetchStage_misaligned hpc))

/-- Settles O37: a transfer in a delay slot is refused by its own meaning, and by Decode. -/
theorem transfersRefusedInDelaySlot : Obligations.TransfersRefusedInDelaySlot := by
  refine ⟨fun i s hi ht => ?_, fun s f r i m hr hw hn hf hdec hi hx ht hm hs => ?_⟩
  · rw [exec_of_isTransfer hi, State.branch, if_pos ht]
  · have hslot : s.inDelaySlot = true := by simp [State.inDelaySlot, hx, ht]
    refine step_cycle_stop hr hw hn (evaluateStages_decode_stop (e := .refuse .controlTransferInDelaySlot) hm ?_)
    rw [decodeUnlessStalled_of_no_stall hs]
    simp [decodeStage, hf, hdec, hi, hslot]

/-! ### The faults no step raises (entry 16) -/

/-- The outcome is none of the contract faults, nor a refusal for want of a meaning. -/
def Ordinary (o : Host.Outcome State Fault Refusal) : Prop :=
  o ≠ .fault .memMaskContract ∧ o ≠ .fault .registerIdOutOfRange ∧ ∀ name, o ≠ .refused (.notModelled name)

theorem ordinary_next (s : State) : Ordinary (.next s) := ⟨nofun, nofun, nofun⟩

theorem ordinary_finish {o : Host.Outcome State Fault Refusal} (h : Ordinary o) (inp : Inputs) :
    Ordinary (finish inp o) := by
  cases o with
  | next s => exact ordinary_next _
  | fault f => exact h
  | refused r => exact h

/-- R222 to R232: the widths of an access. -/
theorem width_of_accessOf {i : Instr} {n : Nat}
    (h : (∃ signed, accessOf i = some (.load n signed)) ∨ accessOf i = some (.store n)) :
    n = 1 ∨ n = 2 ∨ n = 4 ∨ n = 8 := by
  cases i <;> simp [accessOf] at h <;> simp [← h]

theorem accessMask_error {a : Word} {n : Nat} {e : Stop} (hn : n = 1 ∨ n = 2 ∨ n = 4 ∨ n = 8)
    (h : accessMask a n = .error e) : e = .fault .misalignedAccess := by
  by_cases ha : a.toNat % n = 0
  · rw [accessMask_aligned hn ha] at h
    cases h
  · rw [accessMask_misaligned ha] at h
    cases h
    rfl

/-- R78, R85: the two stops of a load. -/
theorem memRead_error {s : State} {a : Word} {n : Nat} {signed : Bool} {e : Stop}
    (hn : n = 1 ∨ n = 2 ∨ n = 4 ∨ n = 8) (h : s.memRead a n signed = .error e) :
    e = .fault .misalignedAccess ∨ e = .refuse .loadOutsideCachedWindow := by
  unfold State.memRead at h
  cases hm : accessMask a n with
  | error e' =>
    simp only [hm, Except.error.injEq] at h
    exact .inl (h ▸ accessMask_error hn hm)
  | ok m =>
    simp only [hm] at h
    split at h
    · split at h <;> cases h
    · cases h
      exact .inr rfl

/-- R78: the one stop of a store. -/
theorem memWrite_error {s : State} {a : Word} {n : Nat} {v : Word} {e : Stop}
    (hn : n = 1 ∨ n = 2 ∨ n = 4 ∨ n = 8) (h : s.memWrite a n v = .error e) : e = .fault .misalignedAccess := by
  unfold State.memWrite at h
  cases hm : accessMask a n with
  | error e' =>
    simp only [hm, Except.error.injEq] at h
    exact h ▸ accessMask_error hn hm
  | ok m =>
    simp only [hm] at h
    split at h
    · split at h <;> cases h
    · cases h

theorem ordinary_misalignedAccess : Ordinary (.fault .misalignedAccess) := ⟨nofun, nofun, nofun⟩

theorem ordinary_of_memRead {s : State} {a : Word} {n : Nat} {signed : Bool} {e : Stop}
    (hn : n = 1 ∨ n = 2 ∨ n = 4 ∨ n = 8) (h : s.memRead a n signed = .error e) : Ordinary e.outcome := by
  rcases memRead_error hn h with rfl | rfl
  · exact ordinary_misalignedAccess
  · exact ⟨nofun, nofun, nofun⟩

theorem ordinary_of_memWrite {s : State} {a : Word} {n : Nat} {v : Word} {e : Stop}
    (hn : n = 1 ∨ n = 2 ∨ n = 4 ∨ n = 8) (h : s.memWrite a n v = .error e) : Ordinary e.outcome := by
  rw [memWrite_error hn h]
  exact ordinary_misalignedAccess

theorem ordinary_exec (i : Instr) (s : State) : Ordinary (exec i s) := by
  rw [exec_eq_tableEffect]
  unfold tableEffect
  split
  next n signed ha =>
    have hn := width_of_accessOf (.inl ⟨signed, ha⟩)
    split
    · unfold State.load
      split
      · exact ordinary_of_memRead hn ‹_›
      · exact ordinary_next _
      · exact ordinary_next _
    · exact ordinary_next _
  next n ha =>
    have hn := width_of_accessOf (.inr ha)
    unfold State.store
    split
    · exact ordinary_of_memWrite hn ‹_›
    · exact ordinary_next _
    · exact ordinary_next _
  next =>
    split
    · exact ordinary_next _
    · unfold State.branch
      split
      · exact ⟨nofun, nofun, nofun⟩
      · exact ordinary_next _

theorem ordinary_of_memoryStage {s : State} {e : Stop} (h : memoryStage s = .error e) : Ordinary e.outcome := by
  unfold memoryStage at h
  split at h
  · cases h
  · split at h
    next n signed ha =>
      have hn := width_of_accessOf (.inl ⟨signed, ha⟩)
      split at h <;> cases h
      exact ordinary_of_memRead hn ‹_›
    next n ha =>
      have hn := width_of_accessOf (.inr ha)
      split at h <;> cases h
      exact ordinary_of_memWrite hn ‹_›
    next => split at h <;> cases h

theorem ordinary_of_decodeUnlessStalled {s : State} {x : ExecuteResult} {m : MemoryResult}
    {w : Option (RegisterId × Word)} {e : Stop} (h : decodeUnlessStalled s x m w = .error e) : Ordinary e.outcome := by
  unfold decodeUnlessStalled decodeStage at h
  split at h
  · cases h
  · split at h
    · cases h
    · split at h
      · cases h
        exact ⟨nofun, nofun, nofun⟩
      · split at h
        · cases h
          exact ⟨nofun, nofun, nofun⟩
        · split at h <;> cases h

theorem fetch_error {s : State} {e : Stop} (h : s.fetch = .error e) : e = .fault .misalignedPc := by
  unfold State.fetch at h
  split at h
  · cases h
    rfl
  · split at h <;> cases h

theorem ordinary_of_fetch {s : State} {e : Stop} (h : s.fetch = .error e) : Ordinary e.outcome := by
  rw [fetch_error h]
  exact ⟨nofun, nofun, nofun⟩

theorem ordinary_of_evaluateStages {s : State} {e : Stop} (h : evaluateStages s = .error e) : Ordinary e.outcome := by
  unfold evaluateStages at h
  split at h
  · cases h
    exact ordinary_of_memoryStage ‹_›
  · split at h
    · cases h
      exact ordinary_of_decodeUnlessStalled ‹_›
    · split at h
      · cases h
        rename_i hf
        unfold fetchStage at hf
        split at hf <;> cases hf
        exact ordinary_of_fetch ‹_›
      · cases h

theorem ordinary_noReset : Ordinary (.fault .noReset) := ⟨nofun, nofun, nofun⟩

theorem ordinary_runCycle {s : State} {e : Stop} (h : runCycle s = .error e) : Ordinary e.outcome := by
  unfold runCycle at h
  split at h
  · split at h <;> cases h
    exact ordinary_of_evaluateStages ‹_›
  · cases h
    exact ordinary_noReset

theorem ordinary_runInstruction (s : State) : Ordinary (runInstruction s) := by
  unfold runInstruction
  split
  · split
    · exact ordinary_of_fetch ‹_›
    · exact ordinary_next _
    · unfold runWord
      split
      · exact ⟨nofun, nofun, nofun⟩
      · exact ordinary_exec _ _
  · exact ordinary_noReset

theorem ordinary_step (s : State) : Ordinary (step s) := by
  rw [step_eq_finish]
  refine ordinary_finish ?_ _
  unfold beforeFills
  split
  · exact ordinary_next _
  · split
    · split
      · exact ordinary_runCycle ‹_›
      · exact ordinary_next _
    · exact ordinary_runInstruction _

/-- Settles O15: the ranges are those of the two constructors' tests; every access has a legal width, so an aligned one
makes a legal mask; every stop of a stage and of a meaning is ordinary. -/
theorem contractFaultsAreUnreachable : Obligations.ContractFaultsAreUnreachable :=
  ⟨fun _ _ => rfl, fun _ n => dif_pos n.isLt, fun _ _ hn => dif_neg (Nat.not_lt.mpr hn), ordinary_step⟩

/-! ### Integer(0) -/

theorem isZeroRegister_of_hardwired {c : Config} (h : c.r0HardwiredZero = true) :
    Config.isZeroRegister c (.integer 0) = true := by
  simp [Config.isZeroRegister, h]

theorem isZeroRegister_of_not_hardwired {c : Config} (h : c.r0HardwiredZero = false) (r : RegisterId) :
    Config.isZeroRegister c r = false := by
  simp [Config.isZeroRegister, h]

/-- Settles O17: every read, write, destination and interlock asks `isZeroRegister`, which the parameter decides. -/
theorem hardwiredZeroRegister : Obligations.HardwiredZeroRegister := by
  intro s
  refine ⟨fun h => ?_, fun h r => ?_, fun v => ?_⟩
  · have hz := isZeroRegister_of_hardwired h
    refine ⟨by simp [State.x, hz], fun v q => by simp [State.reg_writeX, hz], fun i hi => ?_, fun x m w => ?_⟩
    · simp [Config.dest, hi, Config.realDest, hz]
    · simp [operandValue, interlocks, hz]
  · have hz := isZeroRegister_of_not_hardwired h
    refine ⟨by simp [State.x, hz], fun i => ?_⟩
    unfold Config.dest
    cases destField i <;> simp [Config.realDest, hz]
  · have hz := not_isZeroRegister_float s.cfg 0
    exact ⟨by simp [State.x, hz], by simp [State.x_writeX, hz]⟩

end Sys2Proof.Safety
end

section
/-! SUPPORT. The 32-bit shifts (R147 to R151): sign-extension of a word, and the amounts. -/

namespace Sys2Proof.Machine

@[simp] theorem alu_or (a b : Word) : alu .or a b = a ||| b := rfl
@[simp] theorem alu_passB (a b : Word) : alu .passB a b = b := rfl

theorem toInt_sext32 (x : BitVec 32) : (sext32 x).toInt = x.toInt := BitVec.toInt_signExtend_of_le (by decide)

@[simp] theorem setWidth_sext32 (x : BitVec 32) : (sext32 x).setWidth 32 = x := by
  ext i hi
  have hin : i < 64 := by omega
  rw [BitVec.getElem_setWidth, sext32, BitVec.getLsbD_signExtend, if_pos hi, decide_eq_true hin, Bool.true_and,
    BitVec.getLsbD_eq_getElem]

/-- R151: the sign-extended word shifted is the shifted word sign-extended. -/
theorem sshiftRight_sext32 (x : BitVec 32) (n : Nat) : (sext32 x).sshiftRight n = sext32 (x.sshiftRight n) := by
  apply BitVec.eq_of_toInt_eq
  rw [toInt_sext32, BitVec.toInt_sshiftRight, BitVec.toInt_sshiftRight, toInt_sext32]

section
variable (a b : Word)

@[simp] theorem alu_shiftLeft32 :
    alu .shiftLeft32 a b = sext32 (a.setWidth 32 <<< (b.toNat % 32)) := rfl

@[simp] theorem alu_shiftRight32 :
    alu .shiftRight32 a b = sext32 (a.setWidth 32 >>> (b.toNat % 32)) := rfl

@[simp] theorem alu_shiftRightArith32 :
    alu .shiftRightArith32 a b = sext32 ((a.setWidth 32).sshiftRight (b.toNat % 32)) :=
  sshiftRight_sext32 ..

end

theorem toInt_shiftLeft32 (a b : Word) :
    (alu .shiftLeft32 a b).toInt = Int.bmod (a.toNat % 2 ^ 32 * 2 ^ (b.toNat % 32)) (2 ^ 32) := by
  rw [alu_shiftLeft32, toInt_sext32, BitVec.toInt_eq_toNat_bmod, BitVec.toNat_shiftLeft, Nat.shiftLeft_eq,
    BitVec.toNat_setWidth]
  push_cast
  exact Int.emod_bmod ..

theorem toInt_shiftRight32 (a b : Word) :
    (alu .shiftRight32 a b).toInt = Int.bmod (a.toNat % 2 ^ 32 / 2 ^ (b.toNat % 32)) (2 ^ 32) := by
  rw [alu_shiftRight32, toInt_sext32, BitVec.toInt_eq_toNat_bmod, BitVec.toNat_ushiftRight,
    Nat.shiftRight_eq_div_pow, BitVec.toNat_setWidth]
  push_cast
  rfl

theorem toInt_shiftRightArith32 (a b : Word) :
    (alu .shiftRightArith32 a b).toInt = Int.bmod a.toNat (2 ^ 32) / 2 ^ (b.toNat % 32) := by
  rw [alu_shiftRightArith32, toInt_sext32, BitVec.toInt_sshiftRight, BitVec.toInt_setWidth,
    Int.shiftRight_eq_div_pow]
  norm_cast

/-- R144: the difference by complement. -/
theorem sub64_eq_add64_not (a b : Word) : alu .sub64 a b = alu .add64 a (alu .add64 (~~~b) 1) := by
  rw [alu_sub64, alu_add64, alu_add64, BitVec.sub_eq_add_neg, BitVec.neg_eq_not_add]
  rfl

/-- R146: the unsigned comparison is the borrow of the difference. -/
theorem setLessUnsigned_iff_borrow (a b : Word) :
    alu .setLessUnsigned a b = 1 ↔ ((alu .sub64 a b).toNat : Int) ≠ (a.toNat : Int) - b.toNat := by
  have ha := a.isLt
  have hb := b.isLt
  rw [toNat_alu_sub64, alu_setLessUnsigned]
  by_cases h : a.toNat < b.toNat
  · simp only [h, if_true, true_iff]
    omega
  · have h01 : (0 : Word) ≠ 1 := by decide
    simp only [h, if_false, h01, false_iff, not_not]
    omega

/-- R147: the low five bits alone count in a 32-bit shift. -/
theorem toNat_low5 (b : Word) : ((b.extractLsb' 0 5).setWidth 64).toNat % 32 = b.toNat % 32 := by
  simp [BitVec.toNat_setWidth]

/-- R147: the low six bits alone count in a 64-bit shift. -/
theorem toNat_low6 (b : Word) : ((b.extractLsb' 0 6).setWidth 64).toNat % 64 = b.toNat % 64 := by
  simp [BitVec.toNat_setWidth]

end Sys2Proof.Machine
end

section
/-! SUPPORT. More of the Memory Mask Unit (R171). -/

namespace Sys2Proof.Machine

variable {m : MemMask}

/-- R165, R167: the field that is written is the low bytes of the payload. -/
theorem extract_insert (hm : m.legal = true) (a b : Word) : extract m (insert m a b) = b &&& ones m.len := by
  have hfit := m.legal_iff.mp hm
  refine eq_of_byteOf_eq fun i hi => ?_
  rw [byteOf_and, MemMask.len, byteOf_ones _ hi]
  by_cases h : 7 - m.size ≤ i
  · obtain ⟨j, rfl⟩ := Nat.exists_eq_add_of_le h
    have hj : j ≤ m.size := by omega
    have hin : m.align ≤ m.align + j ∧ m.align + j ≤ m.align + m.size := by omega
    have hpos : m.align + j + 7 - (m.align + m.size) = 7 - m.size + j := by omega
    have hones : 8 ≤ m.size + 1 + (7 - m.size + j) := by omega
    rw [byteOf_extract_field hm _ hj, byteOf_insert hm _ _ (by omega), if_pos hin, hpos, if_pos hones,
      BitVec.and_allOnes]
  · have hones : ¬ 8 ≤ m.size + 1 + i := by omega
    rw [byteOf_extract_above m _ (by omega), if_neg hones]
    exact BitVec.and_zero.symm

theorem toNat_and_ones {n : Nat} (hn : n ≤ 64) (b : Word) : (b &&& ones n).toNat = b.toNat % 2 ^ n := by
  rw [BitVec.toNat_and, toNat_ones hn, Nat.and_two_pow_sub_one_eq_mod]

theorem clear_insert (hm : m.legal = true) (a b : Word) : clear m (insert m a b) = clear m a := by
  refine eq_of_byteOf_eq fun i hi => ?_
  rw [byteOf_clear hm _ hi, byteOf_clear hm _ hi, byteOf_insert hm _ _ hi]
  split <;> rfl

theorem insertAligned_self (hm : m.legal = true) (a : Word) : insertAligned m a a = a :=
  eq_of_byteOf_eq fun i hi => by rw [byteOf_insertAligned hm _ _ hi, ite_self]

theorem popcount8_byteMask (hm : m.legal = true) : popcount8 (byteMask m) = m.size + 1 := by
  have all : ∀ size < 8, ∀ align < 8 - size, popcount8 (byteMask { size := size, align := align }) = size + 1 := by
    decide
  have hfit := m.legal_iff.mp hm
  exact all m.size (by omega) m.align (by omega)

/-- R164: the eight bits of byte `i` of the bit mask, the most significant first. -/
theorem getLsbD_bitMask (hm : m.legal = true) {i k : Nat} (hi : i < 8) (hk : k < 8) :
    (bitMask m).getLsbD (63 - 8 * i - k) = (byteMask m).getLsbD i := by
  have hpos : 63 - 8 * i - k = 56 - 8 * i + (7 - k) := by omega
  rw [hpos, ← getElem_byteOf _ _ (show 7 - k < 8 by omega), byteOf_bitMask hm hi, getLsbD_byteMask m hi]
  by_cases h : m.align ≤ i ∧ i ≤ m.align + m.size
  · rw [if_pos h, decide_eq_true h, BitVec.getElem_allOnes]
  · rw [if_neg h, decide_eq_false h]
    exact BitVec.getElem_zero _

end Sys2Proof.Machine
end

section
/-! The 32-bit modes, the laws of the unit, and the identities of the mask unit. -/

namespace Sys2Proof.Safety

open Sys2Proof.Machine

/-- Settles O9: the value of a sign-extended word is the word's own; shifts multiply and divide. -/
theorem wordShiftModes : Obligations.WordShiftModes :=
  fun a b => ⟨toInt_shiftLeft32 a b, toInt_shiftRight32 a b, toInt_shiftRightArith32 a b⟩

/-- Settles O10: each law from the equation of its mode. -/
theorem aluLaws : Obligations.AluLaws := by
  intro a b
  refine ⟨sub64_eq_add64_not a b, setLessUnsigned_iff_borrow a b, ?_, ?_, fun k _ => ?_, alu_passB a b⟩
  · simp only [List.forall_mem_cons, alu_setLess, alu_setLessUnsigned]
    exact ⟨(ite_eq_or_eq ..).symm, (ite_eq_or_eq ..).symm, nofun⟩
  · simp only [List.forall_mem_cons, alu_shiftLeft32, alu_shiftRight32, alu_shiftRightArith32, setWidth_sext32]
    exact ⟨rfl, rfl, rfl, nofun⟩
  · rw [alu_or, BitVec.getLsbD_or]

/-- Settles O7: the equations of the modes name the amounts, which only the low bits of `b` give. -/
theorem shiftAmountsAreTruncated : Obligations.ShiftAmountsAreTruncated := by
  refine ⟨fun a b => ?_, ?_, ?_⟩
  · refine ⟨rfl, rfl, rfl, ?_, ?_, ?_⟩
    · rw [alu_shiftLeft32, setWidth_sext32]
    · rw [alu_shiftRight32, setWidth_sext32]
    · rw [alu_shiftRightArith32, setWidth_sext32]
  · simp only [List.forall_mem_cons, alu_shiftLeft32, alu_shiftRight32, alu_shiftRightArith32, toNat_low5]
    exact ⟨fun _ _ => ⟨trivial, rfl⟩, fun _ _ => ⟨trivial, rfl⟩, fun _ _ => ⟨trivial, rfl⟩, nofun⟩
  · simp only [List.forall_mem_cons, alu_shiftLeft64, alu_shiftRight64, alu_shiftRightArith64, toNat_low6]
    exact ⟨fun _ _ => ⟨trivial, rfl⟩, fun _ _ => ⟨trivial, rfl⟩, fun _ _ => ⟨trivial, rfl⟩, nofun⟩

/-- Settles O14: byte by byte, and for the count over the legal masks. -/
theorem maskIdentities : Obligations.MaskIdentities := by
  intro m hm a b
  refine ⟨?_, clear_insert hm a b, insertAligned_self hm a, popcount8_byteMask hm,
    fun i k hi hk => getLsbD_bitMask hm hi hk⟩
  rw [extract_insert hm, toNat_and_ones (len_le_of_legal hm), MemMask.len]

end Sys2Proof.Safety
end

section
/-! SUPPORT. Addresses (R67): the lines and bytes of one doubleword, and what a fetch and a data access read there. -/

namespace Sys2Proof.Machine

/-! ### The address split -/

/-- R82: the doubleword of an address starts at the multiple of 8 below it. -/
theorem toNat_rowOf (a : Word) : (rowOf a).toNat = a.toNat / 8 * 8 := by
  have h : rowOf a = (a >>> 3) <<< 3 := by
    apply BitVec.eq_of_getLsbD_eq
    intro i hi
    have h7 : (7 : Word).getLsbD i = decide (i < 3) := Nat.testBit_two_pow_sub_one 3 i
    rw [rowOf, BitVec.getLsbD_and, BitVec.getLsbD_not, h7, BitVec.getLsbD_shiftLeft, BitVec.getLsbD_ushiftRight]
    by_cases h3 : i < 3
    · simp [h3]
    · simp [h3, hi, show 3 + (i - 3) = i by omega]
  have ha := a.isLt
  rw [h, BitVec.toNat_shiftLeft, BitVec.toNat_ushiftRight, Nat.shiftLeft_eq, Nat.shiftRight_eq_div_pow]
  omega

theorem rowOf_eq_iff {a b : Word} : rowOf a = rowOf b ↔ a.toNat / 8 = b.toNat / 8 := by
  rw [← BitVec.toNat_inj, toNat_rowOf, toNat_rowOf]
  omega

theorem tagOf_eq (bits : Nat) (a : Word) : tagOf bits a = a.toNat / 8 / 2 ^ bits := by
  rw [tagOf, Nat.pow_add, Nat.div_div_eq_div_mul]

/-- R67: index and tag make up the number of the doubleword. -/
theorem row_eq_tag_index (bits : Nat) (a : Word) : a.toNat / 8 = 2 ^ bits * tagOf bits a + indexOf bits a := by
  rw [tagOf_eq, indexOf, Nat.div_add_mod]

/-- R68: two addresses have the same index and tag exactly when they lie in one doubleword. -/
theorem rowOf_eq_iff_index_tag (bits : Nat) {a b : Word} :
    rowOf a = rowOf b ↔ indexOf bits a = indexOf bits b ∧ tagOf bits a = tagOf bits b := by
  rw [rowOf_eq_iff]
  constructor
  · intro h
    rw [tagOf_eq, tagOf_eq, indexOf, indexOf, h]
    exact ⟨rfl, rfl⟩
  · rintro ⟨hi, ht⟩
    rw [row_eq_tag_index bits, row_eq_tag_index bits b, hi, ht]

theorem tagOf_lt {bits : Nat} (h : 3 + bits ≤ 64) (a : Word) : tagOf bits a < 2 ^ (64 - (3 + bits)) := by
  apply Nat.div_lt_of_lt_mul
  rw [← Nat.pow_add, Nat.add_sub_cancel' h]
  exact a.isLt

theorem address_eq_split (bits : Nat) (a : Word) :
    a.toNat = tagOf bits a * 2 ^ (3 + bits) + indexOf bits a * 8 + offsetOf a := by
  have hrow := row_eq_tag_index bits a
  have hoff : a.toNat = a.toNat / 8 * 8 + offsetOf a := (Nat.div_add_mod' ..).symm
  rw [hrow] at hoff
  rw [hoff, Nat.pow_add]
  ring

/-! ### Consecutive bytes -/

section
variable {a : Word} {n k : Nat} (hn : n = 1 ∨ n = 2 ∨ n = 4 ∨ n = 8) (ha : a.toNat % n = 0) (hk : k < n)
include hn ha hk

/-- The bytes of an aligned access do not wrap around. -/
theorem toNat_add_of_aligned : (a + BitVec.ofNat 64 k).toNat = a.toNat + k := by
  have hlt := a.isLt
  rw [BitVec.toNat_add, BitVec.toNat_ofNat]
  rcases hn with rfl | rfl | rfl | rfl <;> omega

theorem offsetOf_add_of_aligned : offsetOf (a + BitVec.ofNat 64 k) = offsetOf a + k := by
  rw [offsetOf, toNat_add_of_aligned hn ha hk, offsetOf]
  rcases hn with rfl | rfl | rfl | rfl <;> omega

/-- The bytes of an aligned access lie in one doubleword. -/
theorem rowOf_add_of_aligned : rowOf (a + BitVec.ofNat 64 k) = rowOf a := by
  rw [rowOf_eq_iff, toNat_add_of_aligned hn ha hk]
  rcases hn with rfl | rfl | rfl | rfl <;> omega

end

/-! ### The lines of one doubleword -/

section
variable {a b : Word} (h : rowOf a = rowOf b) (c : Config) (s : State)
include h

theorem iindex_congr : Config.iindex c a = Config.iindex c b := ((rowOf_eq_iff_index_tag _).mp h).1
theorem itag_congr : Config.itag c a = Config.itag c b := ((rowOf_eq_iff_index_tag _).mp h).2
theorem dindex_congr : Config.dindex c a = Config.dindex c b := ((rowOf_eq_iff_index_tag _).mp h).1
theorem dtag_congr : Config.dtag c a = Config.dtag c b := ((rowOf_eq_iff_index_tag _).mp h).2

theorem ihit_congr : s.ihit a = s.ihit b := by
  rw [State.ihit, State.ihit, iindex_congr h, itag_congr h]

theorem dhit_congr : s.dhit a = s.dhit b := by
  rw [State.dhit, State.dhit, dindex_congr h, dtag_congr h]

end

theorem codeByte_eq_none {s : State} {a : Word} : s.codeByte a = none ↔ s.ihit a = false := by
  unfold State.codeByte
  cases s.ihit a <;> simp

theorem dataByte_eq_none {s : State} {a : Word} : s.dataByte a = none ↔ s.dhit a = false := by
  unfold State.dataByte
  cases s.dhit a <;> simp

/-! ### The fetch (R66, R71, R72) -/

theorem fetch_aligned {s : State} (h : s.pc.toNat % 4 = 0) :
    s.fetch =
      .ok (if s.ihit s.pc then some (wordInLine s.pc (s.iline (Config.iindex s.cfg s.pc)).data) else none) := by
  unfold State.fetch
  rw [if_neg (not_not.mpr h)]
  split <;> rfl

theorem fetchStage_eq {s : State} {o : Option InsWord} (h : s.fetch = .ok o) :
    fetchStage s = .ok (o.map fun w => { pc := s.pc, word := w }) := by
  unfold fetchStage
  rw [h]
  cases o <;> rfl

/-- R66: the instruction at an aligned address is four consecutive bytes of its doubleword. -/
theorem wordInLine_eq {a : Word} (h : a.toNat % 4 = 0) (data : Word) :
    wordInLine a data = data.extractLsb' (32 - 8 * offsetOf a) 32 := by
  have hoff : offsetOf a = a.toNat / 4 % 2 * 4 := by
    unfold offsetOf
    omega
  unfold wordInLine
  split
  next h0 => rw [hoff, h0]
  next h1 => rw [hoff, show a.toNat / 4 % 2 = 1 by omega]

@[simp] theorem length_wordBytes (w : InsWord) : (wordBytes w).length = 4 := rfl

/-- A slice of a slice. -/
theorem slice_slice {n : Nat} (x : BitVec n) (lo : Nat) {len lo' len' : Nat} (h : lo' + len' ≤ len) :
    (x.extractLsb' lo len).extractLsb' lo' len' = x.extractLsb' (lo + lo') len' := by
  ext i hi
  have hin : lo' + i < len := by omega
  simp [hin, Nat.add_assoc]

theorem wordBytes_wordInLine {a : Word} (h : a.toNat % 4 = 0) (data : Word) {k : Nat} (hk : k < 4) :
    (wordBytes (wordInLine a data))[k]'hk = byteOf data (offsetOf a + k) := by
  have hoff : offsetOf a ≤ 4 := by
    unfold offsetOf
    omega
  have hbyte : (wordBytes (wordInLine a data))[k]'hk = (wordInLine a data).extractLsb' (24 - 8 * k) 8 := by
    match k, hk with
    | 0, _ | 1, _ | 2, _ | 3, _ => rfl
  rw [hbyte, wordInLine_eq h, slice_slice _ _ (by omega), byteOf]
  congr 1
  omega

/-- R66: a word is its bytes. -/
theorem eq_of_wordBytes_eq {w v : InsWord} (h : wordBytes w = wordBytes v) : w = v := by
  simp only [wordBytes, List.cons.injEq, and_true] at h
  obtain ⟨h0, h1, h2, h3⟩ := h
  rw [← wordOfBytes_wordBytes w, ← wordOfBytes_wordBytes v, h0, h1, h2, h3]

theorem wordBytes_wordOfBytes (b0 b1 b2 b3 : Byte) : wordBytes (wordOfBytes b0 b1 b2 b3) = [b0, b1, b2, b3] := by
  have h0 : (b0 ++ b1 ++ b2 ++ b3).extractLsb' 24 8 = b0 :=
    (slice_high (b0 ++ b1 ++ b2) b3 16 8).trans
      ((slice_high (b0 ++ b1) b2 8 8).trans ((slice_high b0 b1 0 8).trans (slice_all b0)))
  have h1 : (b0 ++ b1 ++ b2 ++ b3).extractLsb' 16 8 = b1 :=
    (slice_high (b0 ++ b1 ++ b2) b3 8 8).trans
      ((slice_high (b0 ++ b1) b2 0 8).trans ((slice_low b0 b1 (by decide)).trans (slice_all b1)))
  have h2 : (b0 ++ b1 ++ b2 ++ b3).extractLsb' 8 8 = b2 :=
    (slice_high (b0 ++ b1 ++ b2) b3 0 8).trans ((slice_low (b0 ++ b1) b2 (by decide)).trans (slice_all b2))
  have h3 : (b0 ++ b1 ++ b2 ++ b3).extractLsb' 0 8 = b3 :=
    (slice_low (b0 ++ b1 ++ b2) b3 (by decide)).trans (slice_all b3)
  exact congr (congrArg _ h0) (congr (congrArg _ h1) (congr (congrArg _ h2) (congrArg (· :: []) h3)))

/-- R66, R71: what the four bytes at an aligned `pc` read as. -/
theorem codeByte_pc_add {s : State} (h : s.pc.toNat % 4 = 0) {k : Nat} (hk : k < 4) :
    s.codeByte (s.pc + BitVec.ofNat 64 k) =
      if s.ihit s.pc then some ((wordBytes (wordInLine s.pc (s.iline (Config.iindex s.cfg s.pc)).data))[k]'hk)
      else none := by
  have hrow : rowOf (s.pc + BitVec.ofNat 64 k) = rowOf s.pc := rowOf_add_of_aligned (.inr (.inr (.inl rfl))) h hk
  rw [State.codeByte, ihit_congr hrow, iindex_congr hrow, offsetOf_add_of_aligned (.inr (.inr (.inl rfl))) h hk,
    wordBytes_wordInLine h _ hk]

/-- R66, R71, R72: a fetch delivers a word exactly when its bytes are present. -/
theorem fetch_eq_some_iff {s : State} {w : InsWord} (h : s.pc.toNat % 4 = 0) :
    s.fetch = .ok (some w) ↔ Safety.CodeBytes s s.pc (wordBytes w) := by
  rw [fetch_aligned h]
  constructor
  · intro hw k hk
    rw [codeByte_pc_add h hk]
    split at hw
    next hit =>
      cases hw
      rw [if_pos hit]
    next => cases hw
  · intro hb
    have hit : s.ihit s.pc = true := by
      have h0 := hb 0 (by simp)
      rw [codeByte_pc_add h (by decide)] at h0
      split at h0
      · assumption
      · cases h0
    have hw : wordInLine s.pc (s.iline (Config.iindex s.cfg s.pc)).data = w := by
      apply eq_of_wordBytes_eq
      refine List.ext_getElem rfl fun k hk hk' => ?_
      have hbk := hb k hk'
      rw [codeByte_pc_add h (length_wordBytes w ▸ hk'), if_pos hit] at hbk
      exact Option.some.inj hbk
    rw [if_pos hit, hw]

/-- R66: the fetched word is the mask unit's `extract` of the line. -/
theorem wordInLine_eq_extract {a : Word} (h : a.toNat % 4 = 0) (data : Word) :
    (wordInLine a data).setWidth 64 = extract { size := 3, align := offsetOf a } data := by
  have hoff : offsetOf a ≤ 4 := by
    unfold offsetOf
    omega
  have hlegal : MemMask.legal { size := 3, align := offsetOf a } = true := by
    rw [MemMask.legal_iff]
    show 3 + offsetOf a ≤ 7
    omega
  apply BitVec.eq_of_toNat_eq
  rw [toNat_extract hlegal, wordInLine_eq h, BitVec.toNat_setWidth, BitVec.extractLsb'_toNat,
    Nat.shiftRight_eq_div_pow]
  have hshift : (7 - (offsetOf a + 3)) * 8 = 32 - 8 * offsetOf a := by omega
  simp only [hshift]
  omega

end Sys2Proof.Machine
end

section
/-! The address split, the fetch, and the instruction-level step. -/

namespace Sys2Proof.Safety

open Sys2Proof.Machine

/-- Settles O19: division by 8 and then by the number of lines; two addresses of one row agree in both parts. -/
theorem addressSplitIsInjective : Obligations.AddressSplitIsInjective :=
  fun bits a _ h => ⟨address_eq_split bits a, tagOf_lt h a, Nat.mod_lt _ (Nat.two_pow_pos _), rowOf_eq_iff_index_tag bits⟩

/-- Settles O20: the fetch reads the line of `pc` where the four bytes are. -/
theorem fetchedWordIsBigEndian : Obligations.FetchedWordIsBigEndian := by
  refine fun s w h => ⟨fetch_eq_some_iff h, fun hf => ?_⟩
  rw [fetch_aligned h] at hf
  split at hf
  · cases hf
    exact wordInLine_eq_extract h _
  · cases hf

/-- R125: a word that no row admits is rejected. -/
theorem decode_error_of_not_admitted {w : InsWord} (h : ∀ r ∈ opcodeTable, r.admits w = false) :
    ∃ e, decode w = .error e := by
  cases hd : decode w with
  | error e => exact ⟨e, rfl⟩
  | ok i =>
    obtain ⟨r, hr, ha⟩ := (exists_decode_iff w).mp ⟨i, hd⟩
    rw [h r hr] at ha
    cases ha

/-- R259, R287: a step of the instruction-level reading whose fetch delivers a word runs that word. -/
theorem step_instruction_word {s : State} {w : InsWord} (hr : s.reading = .instruction) (hw : s.wasReset = true)
    (hn : s.nextInputs.reset = false) (hf : s.fetch = .ok (some w)) :
    step s = finish s.nextInputs (runWord w s.popInputs) := by
  have hf' : s.popInputs.fetch = .ok (some w) := hf
  rw [step_eq_finish]
  simp [beforeFills, hn, hr, runInstruction, hw, hf']

/-- Settles O5: Decode and the instruction-level step answer a rejected word alike. -/
theorem unadmittedWordsAreRefused : Obligations.UnadmittedWordsAreRefused := by
  intro s w hw hn hadm
  obtain ⟨e, he⟩ := decode_error_of_not_admitted hadm
  refine ⟨fun f m hr hf hfw hm hs => ?_, fun hr hpc hb => ?_⟩
  · refine step_cycle_stop hr hw hn (evaluateStages_decode_stop (e := .refuse (.unadmittedEncoding w)) hm ?_)
    rw [decodeUnlessStalled_of_no_stall hs]
    simp [decodeStage, hf, hfw, he]
  · rw [step_instruction_word hr hw hn ((fetch_eq_some_iff hpc).mpr hb)]
    simp [runWord, he, finish]

theorem decode_of_decodeBytes {b0 b1 b2 b3 : Byte} {i : Instr}
    (h : decodeBytes [b0, b1, b2, b3] = .ok (i, [])) : decode (wordOfBytes b0 b1 b2 b3) = .ok i := by
  unfold decodeBytes at h
  split at h
  next heq =>
    cases heq
    split at h <;> cases h
    assumption
  next hne => exact (hne _ _ _ _ _ rfl).elim

/-- Settles O39: the bytes are those of the word the fetch delivers. -/
theorem instructionStepRunsDecoded : Obligations.InstructionStepRunsDecoded := by
  intro s hr hw hn hpc
  refine ⟨fun b0 b1 b2 b3 i hb hdec => ?_, fun hmiss => ?_⟩
  · rw [← wordBytes_wordOfBytes] at hb
    rw [step_instruction_word hr hw hn ((fetch_eq_some_iff hpc).mpr hb), runWord, decode_of_decodeBytes hdec]
    rfl
  · have hf : s.popInputs.fetch = .ok none := by
      refine (fetch_aligned hpc).trans ?_
      simp [codeByte_eq_none.mp hmiss]
    rw [step_eq_finish]
    simp only [beforeFills, hn, hr, runInstruction, State.popInputs_wasReset, hw, hf]
    rfl

/-! ### Placing an instruction (entry 8) -/

theorem tableWord_toNat (w : InsWord) : tableWord 32 w.toNat = w := by
  rw [tableWord, Nat.mod_eq_of_lt w.isLt]
  simp

/-- R66: the instruction put into a line is read back. -/
theorem wordInLine_putWordInLine (a data : Word) (w : InsWord) : wordInLine a (putWordInLine a data w) = w := by
  unfold wordInLine putWordInLine
  split
  · exact (slice_high w _ 0 32).trans (slice_all w)
  · exact (slice_low _ w (by decide)).trans (slice_all w)

theorem iline_placeWord {s : State} (h : Memory.wf ILine.absent s.ic) (w : InsWord) :
    (s.placeWord w).iline (Config.iindex s.cfg s.pc) =
      { tag := Config.itag s.cfg s.pc, valid := true,
        data := putWordInLine s.pc (if s.ihit s.pc then (s.iline (Config.iindex s.cfg s.pc)).data else 0) w } :=
  Memory.get_set_same h _ _

/-- R61, R287: the placed instruction is the one the next fetch delivers. -/
theorem fetch_placeWord {s : State} (h : Memory.wf ILine.absent s.ic) (hpc : s.pc.toNat % 4 = 0) (w : InsWord) :
    (s.placeWord w).fetch = .ok (some w) := by
  have hline := iline_placeWord h w
  have hit : (s.placeWord w).ihit s.pc = true := by
    rw [State.ihit, State.placeWord_cfg, hline]
    simp
  rw [fetch_aligned (s := s.placeWord w) hpc, State.placeWord_pc, if_pos hit, State.placeWord_cfg, hline,
    wordInLine_putWordInLine]

/-- Entry 8: what the instruction-level reading of a state keeps. -/
theorem atInstructionLevel_kept (s : State) :
    s.atInstructionLevel.reading = .instruction ∧ s.atInstructionLevel.wasReset = s.wasReset ∧
      s.atInstructionLevel.inputs = s.inputs ∧ s.atInstructionLevel.rf = s.rf ∧ s.atInstructionLevel.dc = s.dc ∧
      s.atInstructionLevel.pc = s.pc ∧ s.atInstructionLevel.ic = s.ic := by
  unfold State.atInstructionLevel
  split
  next h => exact ⟨h, rfl, rfl, rfl, rfl, rfl, rfl⟩
  next => exact ⟨rfl, rfl, rfl, rfl, rfl, rfl, rfl⟩

/-- Settles O40: the fetch delivers the placed word, which decodes to the instruction. -/
theorem placedInstructionRuns : Obligations.PlacedInstructionRuns := by
  rintro s i hi hw hn hpc hic p rfl
  obtain ⟨hreading, hreset, hinputs, hrf, hdc, hpc', hic'⟩ := atInstructionLevel_kept s
  have hnext : (s.withFetchWord 32 (encode i).toNat).nextInputs = s.nextInputs := by
    unfold State.nextInputs State.withFetchWord
    rw [State.placeWord_inputs, hinputs]
  have hfetch : (s.withFetchWord 32 (encode i).toNat).fetch = .ok (some (encode i)) := by
    unfold State.withFetchWord
    rw [tableWord_toNat]
    exact fetch_placeWord (hic'.symm ▸ hic) (hpc'.symm ▸ hpc) _
  refine ⟨?_, hrf, hdc, hpc'⟩
  rw [step_instruction_word (s := s.withFetchWord 32 _) hreading (hreset.trans hw) (hnext ▸ hn) hfetch, hnext,
    runWord, decode_encode hi]
  rfl

end Sys2Proof.Safety
end

section
/-! SUPPORT. What a clock cycle that goes on has been, and a cycle with a given outcome of its stages. -/

namespace Sys2Proof.Safety

open Sys2Proof.Machine

/-- R293, R296: a cycle that goes on is a reset cycle or the commit of its stages. -/
theorem step_cycle_cases {s t : State} (hr : s.reading = .cycle) (h : step s = .next t) :
    (s.nextInputs.reset = true ∧ t = s.popInputs.takeReset.applyFills s.nextInputs) ∨
    (s.nextInputs.reset = false ∧ s.wasReset = true ∧ ∃ g, evaluateStages s = .ok g ∧
      t = (s.popInputs.commitCycle g).applyFills s.nextInputs ∧ t.status = g.status) := by
  cases hn : s.nextInputs.reset with
  | true => exact .inl ⟨rfl, step_cycle_reset hr h hn⟩
  | false =>
    obtain ⟨hw, g, hg, rfl, -⟩ := step_cycle_next hr h hn
    exact .inr ⟨rfl, hw, g, hg, rfl, by simp⟩

/-- R290: a cycle that goes on with a status other than that of reset is the commit of its stages. -/
theorem step_cycle_of_status {s t : State} (hr : s.reading = .cycle) (h : step s = .next t)
    (hs : t.status ≠ .exceptionWB .reset) :
    ∃ g, evaluateStages s = .ok g ∧ t = (s.popInputs.commitCycle g).applyFills s.nextInputs ∧ t.status = g.status := by
  rcases step_cycle_cases hr h with ⟨-, rfl⟩ | ⟨-, -, g, hg, ht, hst⟩
  · exact absurd rfl hs
  · exact ⟨g, hg, ht, hst⟩

/-- The statuses in which Execute, Memory and Writeback commit. -/
abbrev Commits (p : PipelineStatus) : Prop := p = .ok ∨ p = .stall .loadInterlock

theorem not_commits_stall {r : StallReason} (hr : r ≠ .loadInterlock) : ¬Commits (.stall r) := by
  simp [Commits, hr]

/-- R290, R291: in a cycle that commits, the Memory stage asks for no stall. -/
theorem stall_none_of_commits {s : State} {g : Stages} (hg : evaluateStages s = .ok g) (h : Commits g.status) :
    g.memory.stall = none := by
  obtain ⟨-, -, hm, -⟩ := evaluateStages_ok hg
  rcases h with h | h
  · exact (Stages.status_ok h).1
  · exact (Stages.status_loadInterlock hm h).1

/-- R287: the fetch of a cycle that goes on. -/
theorem fetch_of_evaluateStages {s : State} {g : Stages} (hg : evaluateStages s = .ok g) :
    s.pc.toNat % 4 = 0 ∧ g.fetch.isSome = s.ihit s.pc := by
  obtain ⟨-, -, -, -, hf⟩ := evaluateStages_ok hg
  obtain ⟨ha, ⟨hh, h⟩ | ⟨hh, h⟩⟩ := fetchStage_ok hf <;> exact ⟨ha, by rw [h, hh]; rfl⟩

/-- R274: what leaves Memory is the instruction in it, if it is not held. -/
theorem memoryStage_next_map {s : State} {m : MemoryResult} (h : memoryStage s = .ok m) (hs : m.stall = none) :
    m.next.map (fun q => (q.pc, q.ins)) = s.xm.map fun r => (r.pc, r.ins) := by
  rcases memoryStage_ok h with ⟨hx, rfl⟩ | ⟨r, hx, ⟨why, -, rfl⟩ | ⟨n, sg, v, -, -, rfl⟩ | ⟨n, e, -, -, rfl⟩ |
    ⟨-, -, rfl⟩ | ⟨-, -, rfl⟩⟩
  case inr.inl => cases hs
  all_goals rw [hx]; rfl

/-- R291: what a cycle that commits hands on from Execute and from Memory. -/
theorem step_cycle_commits {s t : State} {g : Stages} (hg : evaluateStages s = .ok g)
    (ht : t = (s.popInputs.commitCycle g).applyFills s.nextInputs) (h : Commits g.status) :
    t.xm = s.dx.map executed ∧ t.mw.map (fun q => (q.pc, q.ins)) = s.xm.map fun r => (r.pc, r.ins) := by
  obtain ⟨-, hx, hm, -⟩ := evaluateStages_ok hg
  have hxm : t.xm = g.execute.next ∧ t.mw = g.memory.next := by
    rw [ht]
    rcases commitCycle_stages s.popInputs g with ⟨-, -, -, h1, h2⟩ | ⟨-, -, -, h1, h2⟩ | ⟨⟨r, hr, hst⟩, -⟩
    · exact ⟨h1, h2⟩
    · exact ⟨h1, h2⟩
    · rw [hst] at h
      exact absurd h (not_commits_stall hr)
  obtain ⟨hxm, hmw⟩ := hxm
  rw [hxm, hmw, hx, executeStage_next]
  exact ⟨rfl, memoryStage_next_map hm (stall_none_of_commits hg h)⟩

/-- R26, R273, R294: the registers after a cycle, by its status. -/
theorem step_cycle_reg {s t : State} (hr : s.reading = .cycle) (h : step s = .next t) :
    (Commits t.status ∧ ∀ q, t.reg q = (offers (writebackStage s) q).getD (s.reg q)) ∨
    (¬Commits t.status ∧ RegistersKept s t) := by
  rcases step_cycle_cases hr h with ⟨-, rfl⟩ | ⟨-, -, g, hg, ht, hst⟩
  · exact .inr ⟨by simp, fun _ => rfl⟩
  · obtain ⟨hw, -⟩ := evaluateStages_ok hg
    rcases commitCycle_rf s.popInputs g with ⟨hc, hrf⟩ | ⟨⟨r, hne, hc⟩, hrf⟩
    · refine .inl ⟨hst ▸ hc, fun q => ?_⟩
      rw [ht, State.reg_congr (State.applyFills_rf ..), State.reg_congr hrf, reg_writeBack, hw]
      rfl
    · refine .inr ⟨by rw [hst, hc]; exact not_commits_stall hne, fun q => ?_⟩
      rw [ht, State.reg_congr (State.applyFills_rf ..), State.reg_congr hrf]
      rfl

theorem offers_writebackStage (s : State) (q : RegisterId) :
    offers (writebackStage s) q = s.mw.bind fun r => if r.dest = some q then some r.value else none := by
  unfold writebackStage
  cases s.mw with
  | none => rfl
  | some r =>
    cases hd : r.dest with
    | none => simp [offers, hd]
    | some d => simp [offers, hd]

/-! ### A stalled cycle -/

section
variable {s : State} {m : MemoryResult} (hr : s.reading = .cycle) (hw : s.wasReset = true)
  (hn : s.nextInputs.reset = false) (hpc : s.pc.toNat % 4 = 0)
include hr hw hn hpc

/-- R287: in a cycle whose Memory and Decode do not stop, an aligned fetch does not stop either. -/
theorem step_cycle_of_decode {d : DecodeResult} (hm : memoryStage s = .ok m)
    (hd : decodeUnlessStalled s (executeStage s) m (writebackStage s) = .ok d) :
    ∃ g : Stages, g.memory = m ∧ g.decode = d ∧ g.fetch.isSome = s.ihit s.pc ∧ evaluateStages s = .ok g ∧
      step s = .next ((s.popInputs.commitCycle g).applyFills s.nextInputs) := by
  have hg := evaluateStages_of_ok hm hd (fetchStage_eq (fetch_aligned hpc))
  exact ⟨_, rfl, rfl, (fetch_of_evaluateStages hg).2, hg, step_cycle_commit hr hw hn hg⟩

/-- R88, R291: a cycle in which the Memory stage asks for a stall is frozen. -/
theorem step_cycle_memory_stall {r : StallReason} (hm : memoryStage s = .ok m) (hs : m.stall = some r) :
    step s = .next (frozen s r) := by
  obtain ⟨g, rfl, -, -, -, hstep⟩ := step_cycle_of_decode hr hw hn hpc hm (decodeUnlessStalled_of_stall hs)
  have hst : g.status = .stall r := by simp [Stages.status, statusOf, hs]
  have hne : r ≠ .loadInterlock := by
    rcases memoryStage_stall hm hs with rfl | rfl <;> decide
  rw [hstep]
  unfold State.commitCycle
  rw [hst]
  cases r
  case loadInterlock => exact absurd rfl hne
  all_goals rfl

end

/-- R274: a load or a store in Memory whose access waits. -/
theorem memoryStage_of_lookup_stall {s : State} {r : ExecuteMemory} {n : Nat} {why : StallReason} (hx : s.xm = some r)
    (hacc : accessOf r.ins = some (.store n) ∨ ∃ signed, accessOf r.ins = some (.load n signed))
    (ha : r.result.toNat % n = 0) (hc : Config.inCachedWindow s.cfg r.result = true)
    (hl : s.lookup r.result = .stall why) : memoryStage s = .ok (MemoryResult.stalled why) := by
  have hn : n = 1 ∨ n = 2 ∨ n = 4 ∨ n = 8 := width_of_accessOf hacc.symm
  rcases hacc with hacc | ⟨signed, hacc⟩
  · have hacw : s.memWrite r.result n r.sdata = .ok (.stall why) := by
      simp [State.memWrite, accessMask_aligned hn ha, hc, hl]
    simp [memoryStage, hx, hacc, hacw]
  · have hrd : s.memRead r.result n signed = .ok (.stall why) := by
      simp [State.memRead, accessMask_aligned hn ha, hc, hl]
    simp [memoryStage, hx, hacc, hrd]

theorem lookup_busy {s : State} (h : s.dcBusy = true) (a : Word) : s.lookup a = .stall .dataCacheBusy := by
  simp [State.lookup, h]

theorem lookup_miss {s : State} {a : Word} (hb : s.dcBusy = false) (h : s.dataByte a = none) :
    s.lookup a = .stall .dataCacheMiss := by
  simp [State.lookup, hb, dataByte_eq_none.mp h]

theorem lookup_hit {s : State} {a : Word} (hb : s.dcBusy = false) (h : s.dataByte a ≠ none) :
    s.lookup a = .done (s.dline (Config.dindex s.cfg a)) := by
  have hd : s.dhit a = true := by
    rw [Ne, dataByte_eq_none] at h
    simpa using h
  simp [State.lookup, hb, hd]

end Sys2Proof.Safety
end

section
/-! The clock cycle (45_pipeline_controller.md): its status, and what each status moves. -/

namespace Sys2Proof.Safety

open Sys2Proof.Machine

/-- Settles O45: the four cases of the status, with the two stalls Memory can ask for and the fetch that hits or not. -/
theorem statusPriority : Obligations.StatusPriority := by
  intro s t hr h
  rcases step_cycle_cases hr h with ⟨hn, rfl⟩ | ⟨hn, -, g, hg, -, hst⟩
  · exact ⟨fun _ => rfl, fun hn' => by simp [hn] at hn'⟩
  · refine ⟨fun hn' => by simp [hn] at hn', fun _ => ?_⟩
    obtain ⟨-, -, hm, hd, -⟩ := evaluateStages_ok hg
    have hf := (fetch_of_evaluateStages hg).2
    refine ⟨g.memory, hm, fun r hs => ⟨memoryStage_stall hm hs, ?_⟩, fun hs => ?_⟩
    · rw [hst]
      simp [Stages.status, statusOf, hs]
    · rw [decodeUnlessStalled_of_no_stall hs] at hd
      refine ⟨g.decode, hd, fun hi => ?_, fun hi hh => ?_, fun hi hh => ?_⟩ <;> rw [hst]
      · simp [Stages.status, statusOf, hs, hi]
      · simp [Stages.status, statusOf, hs, hi, hf, hh]
      · simp [Stages.status, statusOf, hs, hi, hf, hh]

/-- Settles O46: the third kind of commit is the frozen one. -/
theorem frozenCycleKeepsState : Obligations.FrozenCycleKeepsState := by
  intro s t why hr h hst hne
  obtain ⟨g, -, rfl, hg⟩ := step_cycle_of_status hr h (by simp [hst])
  rw [hst] at hg
  rcases State.commitCycle_cases s.popInputs g with ⟨hc, -⟩ | ⟨hc, -⟩ | ⟨r, -, hc, hu⟩ <;> rw [hc] at hg <;> cases hg
  · exact absurd rfl hne
  · rw [hu]
    rfl

/-- R286: what an interlock in Decode says. -/
theorem interlock_of_decodeStage {s : State} {m : MemoryResult} {w : Option (RegisterId × Word)} {d : DecodeResult}
    (h : decodeStage s (executeStage s) m w = .ok d) (hi : d.interlock = true) :
    ∃ r f i q, s.dx = some r ∧ isLoad r.ins = true ∧ Config.dest s.cfg r.ins = some q ∧
      s.fd = some f ∧ decode f.word = .ok i ∧ q ∈ sources i := by
  rcases decodeStage_ok h with ⟨-, rfl⟩ | ⟨f, i, hf, hdec, -, ⟨hany, -⟩ | ⟨-, rfl⟩⟩
  · cases hi
  · obtain ⟨q, hq, hlock⟩ := List.any_eq_true.mp hany
    simp only [interlocks, Bool.and_eq_true, beq_iff_eq] at hlock
    obtain ⟨-, hload⟩ := hlock
    unfold executeStage at hload
    cases hx : s.dx with
    | none => simp [hx] at hload
    | some r =>
      simp only [hx] at hload
      split at hload
      next hl => exact ⟨r, f, i, q, rfl, hl, hload, hf, hdec, hq⟩
      next => cases hload
  · cases hi

/-- R286: a load in Execute that writes a source of the instruction in Decode interlocks. -/
theorem decodeStage_interlock {s : State} {r : DecodeExecute} {f : FetchDecode} {i : Instr} {q : RegisterId}
    (m : MemoryResult) (w : Option (RegisterId × Word)) (hx : s.dx = some r) (hl : isLoad r.ins = true)
    (hdest : Config.dest s.cfg r.ins = some q) (hf : s.fd = some f) (hdec : decode f.word = .ok i) (hq : q ∈ sources i)
    (ht : ¬(isTransfer i = true ∧ r.taken = true)) :
    decodeStage s (executeStage s) m w = .ok { DecodeResult.empty with interlock := true } := by
  have hslot : (isTransfer i && s.inDelaySlot) = false := by
    simpa [State.inDelaySlot, hx] using ht
  have hlock : interlocks s.cfg (executeStage s) q = true := by
    simp [interlocks, executeStage, hx, hl, hdest, (dest_eq_some.mp hdest).2]
  have hany : (sources i).any (interlocks s.cfg (executeStage s)) = true := List.any_eq_true.mpr ⟨q, hq, hlock⟩
  simp [decodeStage, hf, hdec, hslot, hany]

/-- Settles O47: forwards from what an interlock says, backwards from the stages evaluated one by one. -/
theorem loadInterlockCycle : Obligations.LoadInterlockCycle := by
  refine ⟨fun s t hr h hst => ?_,
    fun s r f i d m hr hw hn hpc hx hl hdest hf hdec hd ht hm hs => ?_⟩
  · obtain ⟨g, hg, ht, hgs⟩ := step_cycle_of_status hr h (by simp [hst])
    rw [hst] at hgs
    obtain ⟨-, -, hm, hd, -⟩ := evaluateStages_ok hg
    obtain ⟨hs, hi⟩ := Stages.status_loadInterlock hm hgs.symm
    rw [decodeUnlessStalled_of_no_stall hs] at hd
    refine ⟨interlock_of_decodeStage hd hi, ?_⟩
    obtain ⟨hxm, hmw⟩ := step_cycle_commits hg ht (.inr hgs.symm)
    have hfront : t.pc = s.pc ∧ t.fd = s.fd ∧ t.dx = none := by
      rw [ht]
      rcases State.commitCycle_cases s.popInputs g with ⟨hc, -⟩ | ⟨-, hu⟩ | ⟨r, hne, hc, -⟩
      · simp [hc] at hgs
      · rw [hu]
        simp [State.commitBackEnd]
      · rw [hc] at hgs
        cases hgs
        exact absurd rfl hne
    obtain ⟨hp, hfd, hdx⟩ := hfront
    exact ⟨hp, hfd, hdx, hxm, hmw⟩
  · have hdecode := decodeStage_interlock m (writebackStage s) hx hl hdest hf hdec hd ht
    rw [← decodeUnlessStalled_of_no_stall hs] at hdecode
    obtain ⟨g, rfl, hgd, -, -, hstep⟩ := step_cycle_of_decode hr hw hn hpc hm hdecode
    refine ⟨_, hstep, ?_⟩
    simp [Stages.status, statusOf, hs, hgd]

/-- Settles O48: Fetch delivers the word at `pc`, and each stage's record is of the instruction in it. -/
theorem okCycleAdvances : Obligations.OkCycleAdvances := by
  intro s t hr h hst
  obtain ⟨g, hg, ht, hgs⟩ := step_cycle_of_status hr h (by simp [hst])
  rw [hst] at hgs
  obtain ⟨-, -, -, hd, hf⟩ := evaluateStages_ok hg
  obtain ⟨hs, hi, q, hq⟩ := Stages.status_ok hgs.symm
  have hfront : t.fd = g.fetch ∧ t.dx = g.decode.next := by
    rw [ht]
    rcases commitCycle_stages s.popInputs g with ⟨-, h1, h2, -⟩ | ⟨hc, -⟩ | ⟨⟨r, -, hc⟩, -⟩
    · exact ⟨h1, h2⟩
    · simp [hc] at hgs
    · simp [hc] at hgs
  obtain ⟨hfd, hdx⟩ := hfront
  refine ⟨?_, ?_, ?_, (step_cycle_commits hg ht (.inl hgs.symm)).2⟩
  · obtain ⟨hpc, ⟨-, hnone⟩ | ⟨hhit, hsome⟩⟩ := fetchStage_ok hf
    · rw [hnone] at hq
      cases hq
    · refine ⟨_, (fetch_eq_some_iff hpc).mp ?_, hfd.trans hsome⟩
      rw [fetch_aligned hpc, if_pos hhit]
  · rw [decodeUnlessStalled_of_no_stall hs] at hd
    rw [hdx]
    rcases decodeStage_ok hd with ⟨hnone, hd⟩ | ⟨f, i, hsome, hdec, -, ⟨-, hd⟩ | ⟨-, hd⟩⟩
    · rw [hd, hnone]
      rfl
    · rw [hd] at hi
      cases hi
    · rw [hd, hsome]
      simp [issue, hdec]
  · rw [(step_cycle_commits hg ht (.inl hgs.symm)).1]
    cases s.dx <;> rfl

/-- Settles O49: only the write port of Writeback reaches the register file. -/
theorem oneRegisterWrittenPerCycle : Obligations.OneRegisterWrittenPerCycle := by
  intro s t hr h
  rcases step_cycle_reg hr h with ⟨hc, hreg⟩ | ⟨hc, hreg⟩
  · exact ⟨fun _ q => by rw [hreg, offers_writebackStage], fun hn => absurd hc hn⟩
  · exact ⟨fun hc' => absurd hc' hc, fun _ => hreg⟩

/-- Settles O16: past the three bypass sources an operand is the register itself; the write shows after the cycle. -/
theorem readPortSeesValueBeforeWrite : Obligations.ReadPortSeesValueBeforeWrite := by
  refine fun s t r v => ⟨fun q => State.reg_setReg s r q v, fun hr _ hw h hst => ⟨fun x m hx hm hz => ?_, ?_⟩⟩
  · have hnone : offers none r = none := rfl
    simp [operandValue, hz, hx, hm, hnone]
  · rcases step_cycle_reg hr h with ⟨-, hreg⟩ | ⟨hc, -⟩
    · refine ⟨by simp [hreg, hw, offers], fun q hq => ?_⟩
      simp [hreg, hw, offers, Ne.symm hq]
    · exact absurd hst hc

/-- Settles O55: the cycle after an interlock has an empty Execute stage. -/
theorem loadInterlockLastsOneCycle : Obligations.LoadInterlockLastsOneCycle := by
  intro s t u hr h hst hu hsu
  obtain ⟨-, -, -, hdx, -⟩ := loadInterlockCycle.1 s t hr h hst
  have hrt : t.reading = .cycle := ((stepsLeaveCodeAndParameters s t h).2.2.1).trans hr
  obtain ⟨⟨r, -, -, -, hdx', -⟩, -⟩ := loadInterlockCycle.1 t u hrt hu hsu
  rw [hdx] at hdx'
  cases hdx'

/-! ### Stalls -/

/-- R76: a frozen cycle without a fill of the ICache leaves its bytes. -/
theorem codeByte_frozen_of_no_fill {s : State} (h : s.nextInputs.ifill = none) (why : StallReason) (a : Word) :
    (frozen s why).codeByte a = s.codeByte a := by
  have hline (k : Nat) : (frozen s why).iline k = s.iline k := by
    simp [frozen, State.iline, h, fillICache]
  simp only [State.codeByte, State.ihit, hline]
  rfl

/-- R76: a frozen cycle without a fill of the DCache leaves its bytes. -/
theorem dataByte_frozen_of_no_fill {s : State} (h : s.nextInputs.dfill = none) (why : StallReason) (a : Word) :
    (frozen s why).dataByte a = s.dataByte a := by
  have hline (k : Nat) : (frozen s why).dline k = s.dline k := by
    simp [frozen, State.dline, h, fillDCache]
  simp only [State.dataByte, State.dhit, hline]
  rfl

/-- R74, R71: the filled line serves the addresses of its index and tag. -/
theorem codeByte_frozen_of_fill {s : State} {f : Fill} {a : Word} (hs : Memory.wf ILine.absent s.ic)
    (hf : s.nextInputs.ifill = some f) (hi : f.index = Config.iindex s.cfg a) (ht : f.tag = Config.itag s.cfg a)
    (why : StallReason) : (frozen s why).codeByte a = some (byteOf f.data (offsetOf a)) := by
  have hline : (frozen s why).iline (Config.iindex s.cfg a) = { tag := f.tag, valid := true, data := f.data } :=
    hi ▸ iline_applyFills_same hs hf
  have hcfg : (frozen s why).cfg = s.cfg := rfl
  simp [State.codeByte, State.ihit, hcfg, hline, ht]

/-- R75, R73: the filled line serves the addresses of its index and tag. -/
theorem dataByte_frozen_of_fill {s : State} {f : Fill} {a : Word} (hs : Memory.wf DLine.absent s.dc)
    (hf : s.nextInputs.dfill = some f) (hi : f.index = Config.dindex s.cfg a) (ht : f.tag = Config.dtag s.cfg a)
    (why : StallReason) : (frozen s why).dataByte a = some (byteOf f.data (offsetOf a)) := by
  have hline : (frozen s why).dline (Config.dindex s.cfg a) =
      { tag := f.tag, valid := true, dirty := false, data := f.data } := hi ▸ dline_applyFills_same hs hf
  have hcfg : (frozen s why).cfg = s.cfg := rfl
  simp [State.dataByte, State.dhit, hcfg, hline, ht]

/-- Settles O52: with nothing older waiting, a fetch that misses gives the frozen cycle. -/
theorem missedFetchStallsUntilFilled : Obligations.MissedFetchStallsUntilFilled := by
  intro s m d hr hw hn hpc hmiss hm hs hd hi
  rw [← decodeUnlessStalled_of_no_stall hs] at hd
  obtain ⟨g, rfl, rfl, hfetch, hg, hstep⟩ := step_cycle_of_decode hr hw hn hpc hm hd
  have hst : g.status = .stall .instructionCacheBusy := by
    simp [Stages.status, statusOf, hs, hi, hfetch, codeByte_eq_none.mp hmiss]
  refine ⟨_, hstep, ?_⟩
  have hfrozen := frozenCycleKeepsState s _ .instructionCacheBusy hr hstep (by simp [hst]) (by decide)
  rw [hfrozen]
  exact ⟨rfl, rfl, fun hf => (codeByte_frozen_of_no_fill hf _ _).trans hmiss,
    fun f hwf hf hidx htag => codeByte_frozen_of_fill hwf hf hidx htag _⟩

/-- Settles O53: an absent line makes Memory ask for the stall. -/
theorem dataMissStallsUntilFilled : Obligations.DataMissStallsUntilFilled := by
  intro s r n hr hw hn hpc hx hacc ha hc hb hmiss
  have hm := memoryStage_of_lookup_stall hx hacc ha hc (lookup_miss hb hmiss)
  exact ⟨_, step_cycle_memory_stall hr hw hn hpc hm rfl, rfl, hx,
    fun hf => (dataByte_frozen_of_no_fill hf _ _).trans hmiss,
    fun f hwf hf hidx htag => dataByte_frozen_of_fill hwf hf hidx htag _⟩

/-- Settles O54: the busy flag is the write's, and a busy lookup answers before the line is asked for. -/
theorem busyLastsOneCycle : Obligations.BusyLastsOneCycle := by
  refine ⟨fun s t h => ?_, fun s r n hr hw hn hpc hx hacc ha hc hb => ?_⟩
  · obtain ⟨u, hu, rfl⟩ := step_next_iff.mp h
    exact (beforeFills_store hu).2
  · have hm := memoryStage_of_lookup_stall hx hacc ha hc (lookup_busy hb _)
    exact ⟨_, step_cycle_memory_stall hr hw hn hpc hm rfl, rfl, rfl, hx⟩

end Sys2Proof.Safety
end

section
/-! SUPPORT. A store on the bytes of data memory (R81, R82): the state after it, line by line and byte by byte. -/

namespace Sys2Proof.Safety

open Sys2Proof.Machine

/-! ### The payload in its lanes -/

/-- The low bits of a word, by a mask. -/
theorem setWidth_setWidth_eq_and_ones (v : Word) {n : Nat} (hn : n ≤ 64) : (v.setWidth n).setWidth 64 = v &&& ones n := by
  have hlt : v.toNat % 2 ^ n < 2 ^ 64 :=
    Nat.lt_of_lt_of_le (Nat.mod_lt _ (Nat.two_pow_pos n)) (Nat.pow_le_pow_right (by decide) hn)
  apply BitVec.eq_of_toNat_eq
  rw [toNat_and_ones hn, BitVec.toNat_setWidth, BitVec.toNat_setWidth, Nat.mod_eq_of_lt hlt]

theorem positioned_eq (m : MemMask) (v : Word) : positioned m v = (v &&& ones m.len) <<< m.shift :=
  (BitVec.shiftLeft_and_distrib ..).symm

section
variable {a : Word} {n : Nat} (hn : n = 1 ∨ n = 2 ∨ n = 4 ∨ n = 8)
include hn

/-- R82: the payload of a store, in place. -/
theorem positioned_eq_lanes (v : Word) : positioned { size := n - 1, align := offsetOf a } v = lanes a n v := by
  have hlen : MemMask.len { size := n - 1, align := offsetOf a } = 8 * n := by
    rcases hn with rfl | rfl | rfl | rfl <;> rfl
  have hshift : MemMask.shift { size := n - 1, align := offsetOf a } = 8 * (8 - n - a.toNat % 8) := by
    show (7 - (offsetOf a + (n - 1))) * 8 = _
    unfold offsetOf
    rcases hn with rfl | rfl | rfl | rfl <;> omega
  have h64 : 8 * n ≤ 64 := by omega
  rw [positioned_eq, hlen, hshift, lanes, setWidth_setWidth_eq_and_ones v h64]

theorem legal_of_aligned (ha : a.toNat % n = 0) : MemMask.legal { size := n - 1, align := offsetOf a } = true := by
  rw [MemMask.legal_iff]
  show n - 1 + offsetOf a ≤ 7
  unfold offsetOf
  rcases hn with rfl | rfl | rfl | rfl <;> omega

/-- R81: the bytes an aligned store puts into its doubleword. -/
theorem byteOf_insert_covered (ha : a.toNat % n = 0) (data v : Word) {k : Nat} (hk : k < n) :
    byteOf (insert { size := n - 1, align := offsetOf a } data v) (offsetOf a + k) =
      v.extractLsb' (8 * (n - 1 - k)) 8 := by
  have hlegal := legal_of_aligned hn ha
  have hfit : n - 1 + offsetOf a ≤ 7 := (MemMask.legal_iff _).mp hlegal
  have hin : offsetOf a ≤ offsetOf a + k ∧ offsetOf a + k ≤ offsetOf a + (n - 1) := by omega
  have hpos : 56 - 8 * (offsetOf a + k + 7 - (offsetOf a + (n - 1))) = 8 * (n - 1 - k) := by omega
  rw [byteOf_insert hlegal _ _ (by omega), if_pos hin, byteOf, hpos]

end

/-! ### The lines after a commit -/

section
variable {s t : State}

/-- R81: the lines after a committed store. -/
theorem dline_commitStore {c : StoreCommit} (hs : Memory.wf DLine.absent s.dc)
    (ht : t.dc = (s.commitStore (some c)).dc) (k : Nat) :
    t.dline k = if k = c.index then { s.dline k with data := c.newdata, dirty := true } else s.dline k := by
  rw [State.dline, ht, State.commitStore_some_dc]
  by_cases hk : k = c.index
  · subst hk
    rw [if_pos rfl, Memory.get_set_same hs]
  · rw [if_neg hk, Memory.get_set_ne hs _ hk, State.dline]

/-- A data byte depends on the parameters and the line of its address. -/
theorem dataByte_congr {b : Word} (hc : t.cfg = s.cfg)
    (hl : t.dline (Config.dindex s.cfg b) = s.dline (Config.dindex s.cfg b)) : t.dataByte b = s.dataByte b := by
  unfold State.dataByte State.dhit
  rw [hc, hl]

theorem codeByte_congr {b : Word} (hc : t.cfg = s.cfg) (hi : t.ic = s.ic) : t.codeByte b = s.codeByte b := by
  unfold State.codeByte State.ihit State.iline
  rw [hc, hi]

/-- The state `t` has the parameters of `s` and the DCache of `s` after the store of the low `n` bytes of `v` at `a`. -/
structure Stored (s t : State) (a : Word) (n : Nat) (v : Word) : Prop where
  form : Memory.wf DLine.absent s.dc
  cfg : t.cfg = s.cfg
  dc : t.dc = (s.commitStore (some (Config.storeCommit s.cfg a { size := n - 1, align := offsetOf a } v
    (s.dline (Config.dindex s.cfg a))))).dc
  width : n = 1 ∨ n = 2 ∨ n = 4 ∨ n = 8
  aligned : a.toNat % n = 0
  hit : s.dhit a = true

variable {a : Word} {n : Nat} {v : Word}

/-- R81: the line of the store is dirty and has the new data; the others are as before. -/
theorem Stored.dline (h : Stored s t a n v) (k : Nat) :
    t.dline k = if k = Config.dindex s.cfg a then
      { s.dline k with
        data := insert { size := n - 1, align := offsetOf a } (s.dline (Config.dindex s.cfg a)).data v
        dirty := true }
      else s.dline k :=
  dline_commitStore h.form h.dc k

theorem Stored.wf (h : Stored s t a n v) : Memory.wf DLine.absent t.dc := by
  rw [h.dc, State.commitStore_some_dc]
  exact Memory.wf_set h.form _ _

theorem Stored.dhit (h : Stored s t a n v) (b : Word) : t.dhit b = s.dhit b := by
  unfold State.dhit
  rw [h.cfg, h.dline]
  split <;> rfl

/-- R81: the bytes that are stored. -/
theorem Stored.dataByte_covered (h : Stored s t a n v) {k : Nat} (hk : k < n) :
    t.dataByte (a + BitVec.ofNat 64 k) = some (v.extractLsb' (8 * (n - 1 - k)) 8) := by
  have hrow : rowOf (a + BitVec.ofNat 64 k) = rowOf a := rowOf_add_of_aligned h.width h.aligned hk
  rw [State.dataByte, h.dhit, dhit_congr hrow, if_pos h.hit, h.cfg, dindex_congr hrow, h.dline, if_pos rfl,
    offsetOf_add_of_aligned h.width h.aligned hk, byteOf_insert_covered h.width h.aligned _ _ hk]

theorem covers_of_row {b : Word} (hrow : rowOf b = rowOf a) (ha : offsetOf a ≤ offsetOf b)
    (hb : offsetOf b ≤ offsetOf a + (n - 1)) (hn : 0 < n) : Covers a n b := by
  refine ⟨offsetOf b - offsetOf a, by omega, ?_⟩
  have hrow' := rowOf_eq_iff.mp hrow
  have hlt := b.isLt
  unfold offsetOf at *
  apply BitVec.eq_of_toNat_eq
  rw [BitVec.toNat_add, BitVec.toNat_ofNat]
  omega

/-- R81: every other byte is as before. -/
theorem Stored.dataByte_not_covered (h : Stored s t a n v) {b : Word} (hb : ¬Covers a n b) :
    t.dataByte b = s.dataByte b := by
  by_cases hidx : Config.dindex s.cfg b = Config.dindex s.cfg a
  · cases hhit : s.dhit b with
    | false =>
      rw [dataByte_eq_none.mpr ((h.dhit b).trans hhit), dataByte_eq_none.mpr hhit]
    | true =>
      have htag : Config.dtag s.cfg b = Config.dtag s.cfg a := by
        have ha := h.hit
        simp only [State.dhit, Bool.and_eq_true, beq_iff_eq, hidx] at hhit ha
        rw [← hhit.2, ha.2]
      have hrow : rowOf b = rowOf a := (rowOf_eq_iff_index_tag _).mpr ⟨hidx, htag⟩
      have hout : ¬(offsetOf a ≤ offsetOf b ∧ offsetOf b ≤ offsetOf a + (n - 1)) := fun ⟨h1, h2⟩ =>
        hb (covers_of_row hrow h1 h2 (by rcases h.width with rfl | rfl | rfl | rfl <;> decide))
      have hoff : offsetOf b < 8 := Nat.mod_lt _ (by decide)
      rw [State.dataByte, State.dataByte, h.dhit, hhit, if_pos rfl, if_pos rfl, h.cfg, hidx, h.dline, if_pos rfl,
        byteOf_insert (legal_of_aligned h.width h.aligned) _ _ hoff, if_neg hout]
  · refine dataByte_congr h.cfg ?_
    rw [h.dline, if_neg hidx]

end

/-! ### What an access that is serviced does -/

/-- R81, R83: a cached store that is serviced. -/
theorem memWrite_cached {s : State} {a : Word} {n : Nat} {v : Word} {e : StoreEffect}
    (hn : n = 1 ∨ n = 2 ∨ n = 4 ∨ n = 8) (hc : Config.inCachedWindow s.cfg a = true) :
    s.memWrite a n v = .ok (.done e) ↔ a.toNat % n = 0 ∧ s.dcBusy = false ∧ s.dhit a = true ∧
      e = { commit := some (Config.storeCommit s.cfg a { size := n - 1, align := offsetOf a } v
              (s.dline (Config.dindex s.cfg a))), ext := none } := by
  by_cases ha : a.toNat % n = 0
  · rcases State.lookup_cases s a with ⟨hb, hl⟩ | ⟨hb, hh, hl⟩ | ⟨hb, hh, hl⟩
    · simp [State.memWrite, accessMask_aligned hn ha, hc, hl, hb]
    · simp [State.memWrite, accessMask_aligned hn ha, hc, hl, hh]
    · simp only [State.memWrite, accessMask_aligned hn ha, hc, hl, hb, hh, ha, if_true, true_and, Except.ok.injEq,
        Serviced.done.injEq]
      exact eq_comm
  · simp [State.memWrite, accessMask_misaligned ha, ha]

/-- R84: a store outside the cached window that is serviced, busy or not. -/
theorem memWrite_external {s : State} {a : Word} {n : Nat} {v : Word} {e : StoreEffect}
    (hn : n = 1 ∨ n = 2 ∨ n = 4 ∨ n = 8) (hc : Config.inCachedWindow s.cfg a = false) :
    s.memWrite a n v = .ok (.done e) ↔ a.toNat % n = 0 ∧
      e = { commit := none, ext := some { address := a, data := lanes a n v, size := n - 1, write := true } } := by
  by_cases ha : a.toNat % n = 0
  · simp [State.memWrite, accessMask_aligned hn ha, hc, ha, externalStore, positioned_eq_lanes hn, eq_comm]
  · simp [State.memWrite, accessMask_misaligned ha, ha]

end Sys2Proof.Safety
end

section
/-! SUPPORT. The frames of the statements, from the operations that complete an instruction. -/

namespace Sys2Proof.Safety

open Sys2Proof.Machine

/-! ### Frames -/

theorem MemoryKept.of_eq {s t : State} (hc : t.cfg = s.cfg) (hd : t.dc = s.dc) (hi : t.ic = s.ic) : MemoryKept s t :=
  ⟨fun _ => dataByte_congr hc (by rw [State.dline, hd, State.dline]), fun _ => codeByte_congr hc hi, hd, hi⟩

theorem MemoryKept.trans {s t u : State} (h : MemoryKept s t) (k : MemoryKept t u) : MemoryKept s u :=
  ⟨fun a => (k.data a).trans (h.data a), fun a => (k.code a).trans (h.code a), k.dlines.trans h.dlines,
    k.ilines.trans h.ilines⟩

theorem ControlKept.trans {s t u : State} (h : ControlKept s t) (k : ControlKept t u) : ControlKept s u :=
  ⟨k.cfg.trans h.cfg, k.reading.trans h.reading, k.wasReset.trans h.wasReset, k.inputs.trans h.inputs,
    k.fd.trans h.fd, k.dx.trans h.dx, k.xm.trans h.xm, k.mw.trans h.mw⟩

/-- R29: when a write is discarded. -/
theorem isZeroRegister_iff {c : Config} {r : RegisterId} :
    Config.isZeroRegister c r = true ↔ c.r0HardwiredZero = true ∧ r = .integer 0 := by
  simp [Config.isZeroRegister]

theorem isZeroRegister_eq_false_iff {c : Config} {r : RegisterId} :
    Config.isZeroRegister c r = false ↔ ¬(c.r0HardwiredZero = true ∧ r = .integer 0) := by
  rw [← isZeroRegister_iff, Bool.not_eq_true]

theorem WritesOnly.trans {s t u : State} {r : RegisterId} {v w w' : Word} (h : WritesOnly s t r v)
    (k : WritesOnly t u r w) (hc : t.cfg = s.cfg)
    (hw : ¬(s.cfg.r0HardwiredZero = true ∧ r = .integer 0) → w = w') : WritesOnly s u r w' := by
  intro q
  rw [k q, h q, hc]
  by_cases hz : s.cfg.r0HardwiredZero = true ∧ r = .integer 0
  · simp [hz]
  · by_cases hq : q = r
    · simp only [hq, hz, not_false_eq_true, and_self, if_true, hw hz]
    · simp only [hq, false_and, if_false]

/-! ### Completions -/

variable {i : Instr} {s : State}

/-- R205, R259: an instruction that retires one result. -/
theorem completesWith_of_retire {r : RegisterId} {u v : Word} (h : exec i s = .next (s.retire r u)) (hv : u = v) :
    CompletesWith i s r v := by
  subst hv
  refine ⟨_, h, fun q => ?_, .of_eq (by simp) (by simp) (by simp), by constructor <;> simp, by constructor <;> simp,
    by constructor <;> simp⟩
  rw [State.reg_congr (State.retire_rf ..), State.reg_writeX]
  simp only [isZeroRegister_eq_false_iff]

/-- R250, R259: a transfer outside the delay slot of a taken one. -/
theorem transfersTo_of_branch {u v : Option Word} (h : exec i s = s.branch u) (hs : s.afterTaken = false) (hv : u = v) :
    TransfersTo i s v := by
  subst hv
  refine ⟨s.transfer u, ?_, fun q => State.reg_congr (by simp) q, .of_eq (by simp) (by simp) (by simp),
    by constructor <;> simp, by constructor <;> simp, by simp, by simp, by simp, by simp⟩
  rw [h, State.branch, hs]
  rfl

/-- R88: an access that waits. -/
theorem waits_of_stalled {why : StallReason} (h : exec i s = .next (s.stalled why)) : Waits i s why :=
  ⟨_, h, fun _ => rfl, .of_eq rfl rfl rfl, by constructor <;> rfl, by constructor <;> rfl, rfl, rfl, rfl, rfl⟩

/-! ### Loads -/

section
variable {rt : RegisterId} {a : Word} {n : Nat} {signed : Bool} (h : exec i s = s.load rt a n signed)
include h

theorem load_misaligned (ha : a.toNat % n ≠ 0) : exec i s = .fault .misalignedAccess := by
  rw [h, State.load, State.memRead, accessMask_misaligned ha]
  rfl

variable (hn : n = 1 ∨ n = 2 ∨ n = 4 ∨ n = 8)
include hn

theorem load_outside (ha : a.toNat % n = 0) (hc : Config.inCachedWindow s.cfg a = false) :
    exec i s = .refused .loadOutsideCachedWindow := by
  rw [h, State.load, State.memRead, accessMask_aligned hn ha]
  simp [hc, Stop.outcome]

theorem load_waits {why : StallReason} (ha : a.toNat % n = 0) (hc : Config.inCachedWindow s.cfg a = true)
    (hl : s.lookup a = .stall why) : Waits i s why := by
  apply waits_of_stalled
  rw [h, State.load, State.memRead, accessMask_aligned hn ha]
  simp [hc, hl]

theorem load_completes {v : Word} (ha : a.toNat % n = 0) (hc : Config.inCachedWindow s.cfg a = true)
    (hb : s.dcBusy = false) (hp : s.dataByte a ≠ none)
    (hv : (if signed then
        extractSigned { size := n - 1, align := offsetOf a } (s.dline (Config.dindex s.cfg a)).data
      else extract { size := n - 1, align := offsetOf a } (s.dline (Config.dindex s.cfg a)).data) = v) :
    CompletesWith i s rt v := by
  refine completesWith_of_retire (u := v) ?_ rfl
  rw [h, State.load, State.memRead, accessMask_aligned hn ha]
  simp only [hc, if_true, lookup_hit hb hp]
  rw [hv]

end

/-! ### Stores -/

section
variable {a : Word} {n : Nat} {v : Word} (h : exec i s = s.store a n v)
include h

theorem store_misaligned (ha : a.toNat % n ≠ 0) : exec i s = .fault .misalignedAccess := by
  rw [h, State.store, State.memWrite, accessMask_misaligned ha]
  rfl

variable (hn : n = 1 ∨ n = 2 ∨ n = 4 ∨ n = 8)
include hn

theorem store_waits {why : StallReason} (ha : a.toNat % n = 0) (hc : Config.inCachedWindow s.cfg a = true)
    (hl : s.lookup a = .stall why) : Waits i s why := by
  apply waits_of_stalled
  rw [h, State.store, State.memWrite, accessMask_aligned hn ha]
  simp [hc, hl]

/-- R84: the external store of an aligned address. -/
theorem store_external (ha : a.toNat % n = 0) (hc : Config.inCachedWindow s.cfg a = false) :
    StoresExternally i s a n v := by
  have hw := (memWrite_external (s := s) (v := v) hn hc).mpr ⟨ha, rfl⟩
  refine ⟨_, by rw [h, State.store, hw], fun q => State.reg_congr (by simp) q, .of_eq (by simp) (by simp) (by simp),
    by constructor <;> simp, by constructor <;> simp, by simp, by simp, by simp⟩

/-- R81, R82, R83: the cached store of an aligned address that is not held. -/
theorem store_cached (hwf : Memory.wf DLine.absent s.dc) (ha : a.toNat % n = 0)
    (hc : Config.inCachedWindow s.cfg a = true) (hb : s.dcBusy = false) (hp : s.dataByte a ≠ none) :
    StoresBytes i s a n v := by
  have hit : s.dhit a = true := by
    rw [Ne, dataByte_eq_none] at hp
    simpa using hp
  have hw := (memWrite_cached (s := s) (v := v) hn hc).mpr ⟨ha, hb, hit, rfl⟩
  refine ⟨_, by rw [h, State.store, hw], ?_⟩
  generalize ht : s.advance.applyStore _ = t
  have hst : Stored s t a n v := ⟨hwf, by simp [← ht], by rw [← ht]; rfl, hn, ha, hit⟩
  refine ⟨fun q => State.reg_congr (by simp [← ht]) q,
    by constructor <;> simp [← ht], by constructor <;> simp [← ht], fun k hk => hst.dataByte_covered hk,
    fun b hnot => hst.dataByte_not_covered hnot, fun b => codeByte_congr hst.cfg (by simp [← ht]), by simp [← ht],
    fun k => ?_, by simp [← ht], by simp [← ht], ?_⟩
  · rw [hst.dline]
    split <;> simp
  · rw [← ht, ← positioned_eq_lanes hn]
    rfl

end

end Sys2Proof.Safety
end

section
/-! SUPPORT. The values of the results: loaded bytes, shift amounts, and the targets of transfers. -/

namespace Sys2Proof.Machine

/-! ### The loaded field (R64, R165, R166) -/

/-- R165, R166: the field a mask reads is a slice of the doubleword, zero- or sign-extended. -/
theorem extract_of_slice {m : MemMask} (hm : m.legal = true) {data : Word} {w : Nat} {x : BitVec w} (hw : m.len = w)
    (hx : data.extractLsb' m.shift w = x) : extract m data = x.setWidth 64 ∧ extractSigned m data = x.signExtend 64 := by
  subst hw hx
  have hlen := len_le_of_legal hm
  have hval : (extract m data).toNat = (data.extractLsb' m.shift m.len).toNat := by
    rw [toNat_extract hm, BitVec.extractLsb'_toNat, Nat.shiftRight_eq_div_pow]
    rfl
  refine ⟨BitVec.eq_of_toNat_eq ?_, ?_⟩
  · rw [hval, BitVec.toNat_setWidth, Nat.mod_eq_of_lt]
    exact Nat.lt_of_lt_of_le (BitVec.isLt _) (Nat.pow_le_pow_right (by decide) hlen)
  · rw [extractSigned]
    congr 1
    apply BitVec.eq_of_toNat_eq
    rw [BitVec.toNat_setWidth, hval, Nat.mod_eq_of_lt (BitVec.isLt _)]

theorem slice_two_bytes (v : Word) {i : Nat} (hi : i + 1 < 8) :
    v.extractLsb' (48 - 8 * i) 16 = byteOf v i ++ byteOf v (i + 1) := by
  unfold byteOf
  rw [BitVec.extractLsb'_append_extractLsb'_eq_extractLsb' (by omega)]
  congr 1
  omega

theorem slice_four_bytes (v : Word) {i : Nat} (hi : i + 3 < 8) :
    v.extractLsb' (32 - 8 * i) 32 = byteOf v i ++ byteOf v (i + 1) ++ byteOf v (i + 2) ++ byteOf v (i + 3) := by
  unfold byteOf
  iterate 3 rw [BitVec.extractLsb'_append_extractLsb'_eq_extractLsb' (by omega)]
  congr 1
  omega

/-! ### Shift amounts (R115, R147) -/

theorem toNat_shiftAmount (sa : BitVec 5) : (shiftAmount sa).toNat = sa.toNat := by
  rw [shiftAmount, BitVec.toNat_setWidth]
  omega

theorem toNat_shiftPlus32 (sa : BitVec 5) : (shiftPlus32 sa).toNat = sa.toNat + 32 := by
  rw [shiftPlus32, BitVec.toNat_add, BitVec.toNat_setWidth, show (32 : Word).toNat = 32 from rfl]
  omega

theorem shiftAmount_mod32 (sa : BitVec 5) : (shiftAmount sa).toNat % 32 = sa.toNat := by
  rw [toNat_shiftAmount, Nat.mod_eq_of_lt sa.isLt]

theorem shiftAmount_mod64 (sa : BitVec 5) : (shiftAmount sa).toNat % 64 = sa.toNat := by
  rw [toNat_shiftAmount]
  omega

theorem shiftPlus32_mod64 (sa : BitVec 5) : (shiftPlus32 sa).toNat % 64 = sa.toNat + 32 := by
  rw [toNat_shiftPlus32]
  omega

/-! ### Targets (R252 to R255) -/

theorem mul_four_eq_shiftLeft (x : Word) : x * (4 : Word) = x <<< 2 := (BitVec.shiftLeft_eq_mul_twoPow x 2).symm

/-- R115: the branch offset counts instructions. -/
theorem boff_eq (imm : BitVec 16) : boff imm = imm.signExtend 64 * 4 := by
  have hmsb : (imm ++ (0 : BitVec 2)).msb = imm.msb := BitVec.msb_append
  rw [mul_four_eq_shiftLeft]
  apply BitVec.eq_of_getLsbD_eq
  intro k hk
  rw [boff, BitVec.getLsbD_signExtend, hmsb, BitVec.getLsbD_append, BitVec.getLsbD_shiftLeft,
    BitVec.getLsbD_signExtend]
  by_cases h2 : k < 2
  · simp [h2, show k < 18 by omega]
  · have hin : k < 18 ↔ k - 2 < 16 := by omega
    simp [h2, hk, hin, show k - 2 < 64 by omega]

/-- R254: the region of the delay slot and the target field, as a mask and an offset. -/
theorem jumpTarget_eq (pc : Word) (target : BitVec 26) :
    jumpTarget pc target = (pc + 4) &&& 0xFFFFFFFFF0000000 ||| target.setWidth 64 * 4 := by
  have hmask : (0xFFFFFFFFF0000000 : Word) = ~~~ones 28 := by decide
  rw [mul_four_eq_shiftLeft, hmask, jumpTarget]
  generalize pc + 4 = slot
  apply BitVec.eq_of_getLsbD_eq
  intro k hk
  rw [BitVec.getLsbD_append, BitVec.getLsbD_append, BitVec.getLsbD_extractLsb', BitVec.getLsbD_or, BitVec.getLsbD_and,
    BitVec.getLsbD_not, getLsbD_ones, BitVec.getLsbD_shiftLeft, BitVec.getLsbD_setWidth]
  by_cases h2 : k < 2
  · simp [h2, hk, show k < 28 by omega]
  · by_cases h28 : k < 28
    · simp [h2, h28, hk, show k - 2 < 26 by omega, show k - 2 < 64 by omega]
    · have hhigh : target.getLsbD (k - 2) = false := BitVec.getLsbD_of_ge _ _ (by omega)
      simp [h2, h28, hk, hhigh, show ¬ k - 2 < 26 by omega, show k - 2 - 26 < 36 by omega,
        show 28 + (k - 2 - 26) = k by omega]

theorem toNat_boff_mod (imm : BitVec 16) : (boff imm).toNat % 4 = 0 := by
  rw [boff_eq, BitVec.toNat_mul, show (4 : Word).toNat = 4 from rfl]
  omega

theorem branchTarget_aligned {pc : Word} (h : pc.toNat % 4 = 0) (imm : BitVec 16) :
    (branchTarget pc imm).toNat % 4 = 0 := by
  have hb := toNat_boff_mod imm
  rw [branchTarget, BitVec.toNat_add, BitVec.toNat_add, show (4 : Word).toNat = 4 from rfl]
  omega

theorem jumpTarget_aligned (pc : Word) (target : BitVec 26) : (jumpTarget pc target).toNat % 4 = 0 := by
  rw [jumpTarget, BitVec.toNat_append, Nat.shiftLeft_eq, show (0 : BitVec 2).toNat = 0 from rfl, Nat.or_zero]
  omega

/-- R256: no transfer but JR redirects to a misaligned address. -/
theorem redirectOf_aligned {i : Instr} {pc t : Word} {v : RegisterId → Word} (hi : ∀ rs, i ≠ .jr rs)
    (hpc : pc.toNat % 4 = 0) (h : redirectOf pc v i = some t) : t.toNat % 4 = 0 := by
  cases i
  case beq | bne =>
    simp only [redirectOf, Option.ite_none_right_eq_some, Option.some.injEq] at h
    obtain ⟨-, rfl⟩ := h
    exact branchTarget_aligned hpc _
  case j =>
    cases h
    exact jumpTarget_aligned ..
  case jr rs => exact absurd rfl (hi rs)
  all_goals cases h

/-! ### Labels (R130) -/

/-- R130: the offset of a branch to a word-aligned label in range. -/
theorem boff_of_range {d : Word} (h4 : d.toNat % 4 = 0) (hlo : -2 ^ 17 ≤ d.toInt) (hhi : d.toInt < 2 ^ 17) :
    boff ((d >>> 2).setWidth 16) = d := by
  have hlow : (d >>> 2).setWidth 16 ++ (0 : BitVec 2) = d.setWidth 18 := by
    apply BitVec.eq_of_toNat_eq
    rw [BitVec.toNat_append, BitVec.toNat_setWidth, BitVec.toNat_setWidth, BitVec.toNat_ushiftRight,
      Nat.shiftLeft_eq, Nat.shiftRight_eq_div_pow, show (0 : BitVec 2).toNat = 0 from rfl, Nat.or_zero]
    omega
  rw [boff, hlow]
  apply BitVec.eq_of_toInt_eq
  rw [BitVec.toInt_signExtend_of_le (by decide), BitVec.toInt_setWidth,
    ← Int.bmod_bmod_of_dvd (show 2 ^ (16 + 2) ∣ 2 ^ 64 by decide), ← BitVec.toInt_eq_toNat_bmod]
  exact Int.bmod_eq_of_le (by omega) (by omega)

/-- R130: a label in the region of the delay slot is the target of its jump field. -/
theorem jumpTarget_jumpField {pc label : Word} (h4 : label.toNat % 4 = 0) (h : jumpReaches pc label = true) :
    jumpTarget pc (jumpField label) = label := by
  have hlow : (0 : BitVec 2) = label.extractLsb' 0 2 := by
    apply BitVec.eq_of_toNat_eq
    rw [BitVec.extractLsb'_toNat]
    exact h4.symm
  have hregion : label.extractLsb' 28 36 = (pc + 4).extractLsb' 28 36 := by simpa [jumpReaches] using h
  rw [jumpTarget, jumpField, ← hregion, hlow,
    BitVec.extractLsb'_append_extractLsb'_eq_extractLsb' (show 28 = 2 + 26 by decide),
    BitVec.extractLsb'_append_extractLsb'_eq_extractLsb' (show 2 = 0 + 2 by decide)]
  exact BitVec.extractLsb'_eq_self

/-- R131: the two immediates of `li32` put the word together. -/
theorem uimm_or_zimm (v : BitVec 32) :
    ((v.extractLsb' 16 16 ++ (0 : BitVec 16)).signExtend 64 : Word) ||| (v.extractLsb' 0 16).setWidth 64 =
      v.signExtend 64 := by
  have hmsb : (v.extractLsb' 16 16 ++ (0 : BitVec 16)).msb = v.msb := by
    refine BitVec.msb_append.trans ?_
    simp [BitVec.msb_eq_getLsbD_last]
  apply BitVec.eq_of_getLsbD_eq
  intro k hk
  rw [BitVec.getLsbD_or, BitVec.getLsbD_signExtend, hmsb, BitVec.getLsbD_append, BitVec.getLsbD_extractLsb',
    BitVec.getLsbD_setWidth, BitVec.getLsbD_extractLsb', BitVec.getLsbD_signExtend]
  by_cases h16 : k < 16
  · simp [h16, hk, show k < 32 by omega]
  · by_cases h32 : k < 32
    · simp [h16, h32, hk, show k - 16 < 16 by omega, show 16 + (k - 16) = k by omega]
    · simp [h16, h32, hk]

end Sys2Proof.Machine

namespace Sys2Proof.Safety

open Sys2Proof.Machine

/-- R64: the bytes of an aligned address, in the line they lie in. -/
theorem bytes_of_dataBytes {s : State} {a : Word} {bs : List Byte}
    (hn : bs.length = 1 ∨ bs.length = 2 ∨ bs.length = 4 ∨ bs.length = 8) (ha : a.toNat % bs.length = 0)
    (h : DataBytes s a bs) : s.dataByte a ≠ none ∧ ∀ (k : Nat) (hk : k < bs.length),
      byteOf (s.dline (Config.dindex s.cfg a)).data (offsetOf a + k) = bs[k] := by
  have byte (k : Nat) (hk : k < bs.length) : s.dhit a = true ∧
      byteOf (s.dline (Config.dindex s.cfg a)).data (offsetOf a + k) = bs[k] := by
    have hrow : rowOf (a + BitVec.ofNat 64 k) = rowOf a := rowOf_add_of_aligned hn ha hk
    have hb := h k hk
    rw [State.dataByte, dhit_congr hrow, dindex_congr hrow, offsetOf_add_of_aligned hn ha hk] at hb
    split at hb
    · exact ⟨‹_›, Option.some.inj hb⟩
    · cases hb
  refine ⟨?_, fun k hk => (byte k hk).2⟩
  rw [Ne, dataByte_eq_none, (byte 0 (by omega)).1]
  decide

end Sys2Proof.Safety
end

section
/-! THE INSTRUCTIONS. Their results, frames and completion. -/

namespace Sys2Proof.Safety

open Sys2Proof.Machine

/-! ### The ALU instructions (O25 to O28) -/

/-- Settles O25: the values of the ALU modes (R143, R145, R146, R153, R154), with the assembled immediates of R115. -/
theorem immediateResults : Obligations.ImmediateResults := by
  intro s rt rs imm
  have himm : (simm imm).toInt = imm.toInt := BitVec.toInt_signExtend_of_le (by decide)
  refine ⟨completesWith_of_retire rfl (alu_passB ..), completesWith_of_retire rfl (alu_or ..),
    completesWith_of_retire rfl (alu_add64 ..), completesWith_of_retire rfl ?_,
    completesWith_of_retire rfl (alu_setLessUnsigned ..)⟩
  rw [alu_setLess, himm]

/-- Settles O26: the values of the ALU modes (R143 to R146, R153) on two registers. -/
theorem threeRegisterResults : Obligations.ThreeRegisterResults := fun _ _ _ _ =>
  ⟨completesWith_of_retire rfl (alu_or ..), completesWith_of_retire rfl (alu_setLess ..),
    completesWith_of_retire rfl (alu_setLessUnsigned ..), completesWith_of_retire rfl (alu_add64 ..),
    completesWith_of_retire rfl (alu_sub64 ..)⟩

/-- Settles O27: the 32-bit shift modes; the amount `sa` is below 32, so `b[4:0]` is all of it. -/
theorem wordShiftResults : Obligations.WordShiftResults := by
  intro s rd rt rs sa
  refine ⟨completesWith_of_retire rfl ?_, completesWith_of_retire rfl ?_, completesWith_of_retire rfl ?_,
    completesWith_of_retire rfl (alu_shiftLeft32 ..), completesWith_of_retire rfl (alu_shiftRight32 ..),
    completesWith_of_retire rfl (alu_shiftRightArith32 ..)⟩
  · rw [alu_shiftLeft32, shiftAmount_mod32, sext32]
  · rw [alu_shiftRight32, shiftAmount_mod32, sext32]
  · rw [alu_shiftRightArith32, shiftAmount_mod32, sext32]

/-- Settles O28: the 64-bit shift modes; the amounts `sa` and `sa + 32` are below 64, so `b[5:0]` is all of them. -/
theorem doublewordShiftResults : Obligations.DoublewordShiftResults := by
  intro s rd rt rs sa
  refine ⟨completesWith_of_retire rfl ?_, completesWith_of_retire rfl ?_, completesWith_of_retire rfl ?_,
    completesWith_of_retire rfl ?_, completesWith_of_retire rfl ?_, completesWith_of_retire rfl ?_,
    completesWith_of_retire rfl (alu_shiftLeft64 ..), completesWith_of_retire rfl (alu_shiftRight64 ..),
    completesWith_of_retire rfl (alu_shiftRightArith64 ..)⟩
  · rw [alu_shiftLeft64, shiftAmount_mod64]
  · rw [alu_shiftRight64, shiftAmount_mod64]
  · rw [alu_shiftRightArith64, shiftAmount_mod64]
  · rw [alu_shiftLeft64, shiftPlus32_mod64]
  · rw [alu_shiftRight64, shiftPlus32_mod64]
  · rw [alu_shiftRightArith64, shiftPlus32_mod64]

/-! ### Loads and stores (O29 to O33) -/

section
variable {s : State} {a : Word} (hc : Config.inCachedWindow s.cfg a = true) (hb : s.dcBusy = false)
include hc hb

/-- R80, R165, R166: what the two loads of one width write, from the slice of the line at `a`. -/
theorem loads_complete {i j : Instr} {rt : RegisterId} {n w : Nat} {x : BitVec w}
    (hi : exec i s = s.load rt a n true) (hj : exec j s = s.load rt a n false)
    (hn : n = 1 ∨ n = 2 ∨ n = 4 ∨ n = 8) (ha : a.toNat % n = 0) (hp : s.dataByte a ≠ none) (hw : n * 8 = w)
    (hx : (s.dline (Config.dindex s.cfg a)).data.extractLsb' ((7 - (offsetOf a + (n - 1))) * 8) w = x) :
    CompletesWith i s rt (x.signExtend 64) ∧ CompletesWith j s rt (x.setWidth 64) := by
  have hlen : MemMask.len { size := n - 1, align := offsetOf a } = w := by
    show (n - 1 + 1) * 8 = w
    omega
  obtain ⟨hext, hsext⟩ := extract_of_slice (legal_of_aligned hn ha) hlen hx
  exact ⟨load_completes hi hn ha hc hb hp hsext, load_completes hj hn ha hc hb hp hext⟩

end

/-- Settles O29: the bytes at the address are the slice of its line that the mask of the load reads. -/
theorem loadResults : Obligations.LoadResults := by
  rintro s rt rs imm a rfl hc hb
  generalize ha : effectiveAddress (s.x rs) imm = a at hc
  have hoff : offsetOf a = a.toNat % 8 := rfl
  refine ⟨ha ▸ alu_add64 .., fun b0 h => ?_, fun b0 b1 h2 h => ?_, fun b0 b1 b2 b3 h4 h => ?_,
    fun b0 b1 b2 b3 b4 b5 b6 b7 h8 h => ?_⟩
  · obtain ⟨hp, hbytes⟩ := bytes_of_dataBytes (.inl rfl) (Nat.mod_one _) h
    refine loads_complete hc hb (ha ▸ rfl) (ha ▸ rfl) (.inl rfl) (Nat.mod_one _) hp rfl ?_
    rw [show (7 - (offsetOf a + (1 - 1))) * 8 = 56 - 8 * offsetOf a by omega]
    exact hbytes 0 (by simp)
  · obtain ⟨hp, hbytes⟩ := bytes_of_dataBytes (.inr (.inl rfl)) h2 h
    refine loads_complete hc hb (ha ▸ rfl) (ha ▸ rfl) (.inr (.inl rfl)) h2 hp rfl ?_
    rw [show (7 - (offsetOf a + (2 - 1))) * 8 = 48 - 8 * offsetOf a by omega, slice_two_bytes _ (by omega)]
    exact congrArg₂ _ (hbytes 0 (by simp)) (hbytes 1 (by simp))
  · obtain ⟨hp, hbytes⟩ := bytes_of_dataBytes (.inr (.inr (.inl rfl))) h4 h
    refine loads_complete hc hb (ha ▸ rfl) (ha ▸ rfl) (.inr (.inr (.inl rfl))) h4 hp rfl ?_
    rw [show (7 - (offsetOf a + (4 - 1))) * 8 = 32 - 8 * offsetOf a by omega, slice_four_bytes _ (by omega)]
    rw [hbytes 1 (by simp), hbytes 2 (by simp), hbytes 3 (by simp)]
    exact congrArg (· ++ b1 ++ b2 ++ b3) (hbytes 0 (by simp))
  · obtain ⟨hp, hbytes⟩ := bytes_of_dataBytes (.inr (.inr (.inr rfl))) h8 h
    have h0 : offsetOf a = 0 := h8
    have hld : exec (.ld rt rs imm) s = s.load rt a 8 false := ha ▸ rfl
    refine load_completes hld (.inr (.inr (.inr rfl))) h8 hc hb hp ?_
    simp only [h0, Nat.zero_add] at hbytes
    rw [if_neg (by decide), extract_of_size_seven (by rw [h0]; decide) rfl, ← append_byteOf (DLine.data _)]
    rw [hbytes 0 (by simp), hbytes 1 (by simp), hbytes 2 (by simp), hbytes 3 (by simp), hbytes 4 (by simp),
      hbytes 5 (by simp), hbytes 6 (by simp), hbytes 7 (by simp)]
    rfl

/-- Settles O30: by the width of the load. -/
theorem loadsWaitOrStop : Obligations.LoadsWaitOrStop := by
  rintro s rt rs imm a rfl
  have waitsOrStops {i : Instr} {n : Nat} {signed : Bool} (hn : n = 1 ∨ n = 2 ∨ n = 4 ∨ n = 8)
      (h : exec i s = s.load rt (effectiveAddress (s.x rs) imm) n signed) :=
    And.intro (load_misaligned h) (And.intro (load_outside h hn)
      (And.intro (fun ha hc hb => load_waits h hn ha hc (lookup_busy hb _))
        (fun ha hc hb hp => load_waits h hn ha hc (lookup_miss hb hp))))
  simp only [List.forall_mem_cons, List.not_mem_nil, false_implies, implies_true, and_true]
  exact ⟨waitsOrStops (.inl rfl) rfl, waitsOrStops (.inl rfl) rfl, waitsOrStops (.inr (.inl rfl)) rfl,
    waitsOrStops (.inr (.inl rfl)) rfl, waitsOrStops (.inr (.inr (.inl rfl))) rfl,
    waitsOrStops (.inr (.inr (.inl rfl))) rfl, waitsOrStops (.inr (.inr (.inr rfl))) rfl⟩

/-- Settles O33: by the width of the store. -/
theorem storesWaitOrStop : Obligations.StoresWaitOrStop := by
  rintro s rt rs imm a rfl
  have waitsOrStops {i : Instr} {n : Nat} (hn : n = 1 ∨ n = 2 ∨ n = 4 ∨ n = 8)
      (h : exec i s = s.store (effectiveAddress (s.x rs) imm) n (s.x rt)) :=
    And.intro (store_misaligned h)
      (And.intro (fun ha hc hb => store_waits h hn ha hc (lookup_busy hb _))
        (fun ha hc hb hp => store_waits h hn ha hc (lookup_miss hb hp)))
  simp only [List.forall_mem_cons, List.not_mem_nil, false_implies, implies_true, and_true]
  exact ⟨waitsOrStops (.inl rfl) rfl, waitsOrStops (.inr (.inl rfl)) rfl, waitsOrStops (.inr (.inr (.inl rfl))) rfl,
    waitsOrStops (.inr (.inr (.inr rfl))) rfl⟩

/-- Settles O31: by the width of the store. -/
theorem cachedStoreResults : Obligations.CachedStoreResults := by
  rintro s rt rs imm a rfl hwf hc hb hp
  exact ⟨store_cached rfl (.inl rfl) hwf (Nat.mod_one _) hc hb hp,
    fun ha => store_cached rfl (.inr (.inl rfl)) hwf ha hc hb hp,
    fun ha => store_cached rfl (.inr (.inr (.inl rfl))) hwf ha hc hb hp,
    fun ha => store_cached rfl (.inr (.inr (.inr rfl))) hwf ha hc hb hp⟩

/-- Settles O32: by the width of the store. -/
theorem externalStoreResults : Obligations.ExternalStoreResults := by
  rintro s rt rs imm a rfl hc
  exact ⟨store_external rfl (.inl rfl) (Nat.mod_one _) hc, fun ha => store_external rfl (.inr (.inl rfl)) ha hc,
    fun ha => store_external rfl (.inr (.inr (.inl rfl))) ha hc,
    fun ha => store_external rfl (.inr (.inr (.inr rfl))) ha hc⟩

/-! ### Transfers and the assembler's forms (O34, O35, O36, O38) -/

/-- R252, R253: the target of a taken branch. -/
theorem branchTarget_eq (pc : Word) (imm : BitVec 16) : branchTarget pc imm = pc + 4 + imm.signExtend 64 * 4 := by
  rw [branchTarget, boff_eq]

/-- Settles O34: the two redirects, with the target of a branch (R252, R253). -/
theorem branchResults : Obligations.BranchResults := by
  intro s rs rt imm hs
  rw [← branchTarget_eq]
  exact ⟨transfersTo_of_branch rfl hs rfl, transfersTo_of_branch rfl hs rfl⟩

/-- Settles O35: the two redirects, with the target of J (R254). -/
theorem jumpResults : Obligations.JumpResults := by
  intro s target rs hs
  rw [← jumpTarget_eq]
  exact ⟨transfersTo_of_branch rfl hs rfl, transfersTo_of_branch rfl hs rfl⟩

/-- R131: `li32` leaves its 32-bit value, whether `rt` is written or hardwired. -/
theorem li32_completes (s : State) (rt : RegisterId) (v : BitVec 32) :
    ∃ t u, exec (li32 rt v).1 s = .next t ∧ exec (li32 rt v).2 t = .next u ∧
      WritesOnly s u rt (v.signExtend 64) ∧ MemoryKept s u ∧ ControlKept s u := by
  obtain ⟨hlui, -⟩ := immediateResults s rt rt (v.extractLsb' 16 16)
  obtain ⟨t, ht, hwt, hmt, hct, -⟩ := hlui
  obtain ⟨-, hori, -⟩ := immediateResults t rt rt (v.extractLsb' 0 16)
  obtain ⟨u, hu, hwu, hmu, hcu, -⟩ := hori
  refine ⟨t, u, ht, hu, hwt.trans hwu hct.cfg fun hz => ?_, hmt.trans hmu, hct.trans hcu⟩
  have hread : t.x rt = (v.extractLsb' 16 16 ++ (0 : BitVec 16)).signExtend 64 := by
    rw [State.x, hct.cfg, isZeroRegister_eq_false_iff.mpr hz, hwt rt]
    simp only [hz, not_false_eq_true, and_self, if_true, Bool.false_eq_true, if_false]
  rw [hread, uimm_or_zimm]

/-- R126: `nop` changes no register where its result is discarded or already there. -/
theorem nop_keepsRegisters {s t : State}
    (h : WritesOnly s t (.integer 0) (((s.x (.integer 0)).setWidth 32).signExtend 64))
    (hz : s.cfg.r0HardwiredZero = true ∨ s.reg (.integer 0) = ((s.reg (.integer 0)).setWidth 32).signExtend 64) :
    RegistersKept s t := by
  intro q
  rw [h q]
  split
  case isTrue hw =>
    obtain ⟨rfl, hnot⟩ := hw
    have hsoft : s.cfg.r0HardwiredZero ≠ true := fun hh => hnot ⟨hh, rfl⟩
    rw [State.x, isZeroRegister_eq_false_iff.mpr hnot]
    exact (hz.resolve_left hsoft).symm
  case isFalse => rfl

/-- Settles O36: `nop` is the shift by 0, `move` the Or with itself, and the two label formulas invert R252 and R254. -/
theorem assemblerForms : Obligations.AssemblerForms := by
  have hnop (s : State) : CompletesWith nop s (.integer 0) (((s.x (.integer 0)).setWidth 32).signExtend 64) := by
    obtain ⟨hsll, -⟩ := wordShiftResults s (.integer 0) (.integer 0) (.integer 0) 0
    rwa [show (0 : BitVec 5).toNat = 0 from rfl, BitVec.shiftLeft_zero] at hsll
  refine ⟨by decide, fun s => ⟨hnop s, fun hz => ?_⟩, fun s rd rs => ?_, li32_completes,
    fun s label hs h4 hpc => ⟨?_, ?_⟩⟩
  · obtain ⟨t, ht, hw, -⟩ := hnop s
    exact ⟨t, ht, nop_keepsRegisters hw hz⟩
  · obtain ⟨hor, -⟩ := threeRegisterResults s rd rs rs
    rwa [BitVec.or_self] at hor
  · rintro ⟨hlo, hhi⟩
    refine transfersTo_of_branch rfl hs ?_
    have hd : (label - (s.pc + 4)).toNat % 4 = 0 := by
      rw [BitVec.toNat_sub, BitVec.toNat_add, show (4 : Word).toNat = 4 from rfl]
      omega
    rw [if_pos rfl, branchTarget, branchField, boff_of_range hd hlo hhi, BitVec.add_comm, BitVec.sub_add_cancel]
  · exact fun hreach => transfersTo_of_branch rfl hs (congrArg some (jumpTarget_jumpField h4 hreach))

/-- Settles O38: the following addresses are `next` and `next + 4` (R259), or the target of a transfer (R256), or, for an
access that waits, the same two again. -/
theorem onlyJumpRegisterMisaligns : Obligations.OnlyJumpRegisterMisaligns := by
  intro i s t hpc hnpc hi h
  have hseq : (s.npc + 4).toNat % 4 = 0 := by
    rw [BitVec.toNat_add, show (4 : Word).toNat = 4 from rfl]
    omega
  obtain ⟨r, v, -, rfl⟩ | ⟨n, v, e, -, -, rfl⟩ | ⟨-, -, rfl⟩ | ⟨-, r, rfl⟩ := exec_next h
  case inl => exact ⟨by simpa using hnpc, by simpa using hseq⟩
  case inr.inl => exact ⟨by simpa using hnpc, by simpa using hseq⟩
  case inr.inr.inl =>
    refine ⟨by simpa using hnpc, ?_⟩
    rw [State.transfer_npc]
    cases ht : redirectOf s.pc s.x i with
    | none => exact hseq
    | some target => exact redirectOf_aligned hi hpc ht
  case inr.inr.inr => exact ⟨hpc, hnpc⟩

end Sys2Proof.Safety
end

section
/-! Stores in the pipeline (20_memory.md sections 8 to 10): what a cycle shows of the store in Memory. -/

namespace Sys2Proof.Safety

open Sys2Proof.Machine

/-- The cycle from `s` to `t` does to the DCache, and shows of it and of the bus, exactly the store effect `e` and then
the fill `f`. -/
structure StoreShown (s t : State) (e : StoreEffect) (f : Option Fill) : Prop where
  cfg : t.cfg = s.cfg
  dc : t.dc = fillDCache (s.applyStore e).dc f
  busy : t.dcBusy = e.commit.isSome
  ext : t.ext = e.ext
  record : t.dcwrite = e.commit.map StoreCommit.record

/-- R291, R292: a commit shows the store of its Memory stage, a frozen cycle none. -/
theorem storeShown_commitCycle (s : State) (g : Stages) :
    (Commits g.status ∧ StoreShown s (s.popInputs.commitCycle g) g.memory.store none) ∨
    (¬Commits g.status ∧ StoreShown s (s.popInputs.commitCycle g) StoreEffect.none none) := by
  have backEnd (v : State) (hc : v.cfg = s.cfg) (hd : v.dc = s.dc) :
      StoreShown s (v.commitBackEnd g) g.memory.store none := by
    refine ⟨by simp [State.commitBackEnd, hc], applyStore_dc_congr (by simp [hd]) _, ?_, ?_, ?_⟩ <;>
      cases hcm : g.memory.store.commit <;> simp [State.commitBackEnd, hcm]
  rcases State.commitCycle_cases s.popInputs g with ⟨hc, hu⟩ | ⟨hc, hu⟩ | ⟨r, hne, hc, hu⟩
  · obtain ⟨hcfg, hdc, hbusy, hext, hrecord⟩ := backEnd (s.popInputs.commitFrontEnd g) rfl rfl
    exact .inl ⟨.inl hc, by rw [hu]; exact ⟨hcfg, hdc, hbusy, hext, hrecord⟩⟩
  · obtain ⟨hcfg, hdc, hbusy, hext, hrecord⟩ := backEnd s.popInputs rfl rfl
    exact .inl ⟨.inr hc, by rw [hu]; exact ⟨hcfg, hdc, hbusy, hext, hrecord⟩⟩
  · exact .inr ⟨hc ▸ not_commits_stall hne, by rw [hu]; exact ⟨rfl, rfl, rfl, rfl, rfl⟩⟩

/-- R295: the fill of the edge comes after the store. -/
theorem StoreShown.applyFills {s u : State} {e : StoreEffect} (h : StoreShown s u e none) (inp : Inputs) :
    StoreShown s (u.applyFills inp) e inp.dfill :=
  ⟨h.cfg, by rw [State.applyFills_dc, h.dc]; rfl, h.busy, h.ext, h.record⟩

/-- R291, R292: a cycle shows the store of its Memory stage if it commits, and none if not. -/
theorem step_cycle_store {s t : State} (hr : s.reading = .cycle) (h : step s = .next t) :
    (¬Commits t.status ∧ StoreShown s t StoreEffect.none s.nextInputs.dfill) ∨
    (Commits t.status ∧ ∃ m, memoryStage s = .ok m ∧ m.stall = none ∧ StoreShown s t m.store s.nextInputs.dfill ∧
      t.xm = s.dx.map executed ∧ t.mw.map (fun q => (q.pc, q.ins)) = s.xm.map fun r => (r.pc, r.ins)) := by
  rcases step_cycle_cases hr h with ⟨-, rfl⟩ | ⟨-, -, g, hg, ht, hst⟩
  · exact .inl ⟨by simp, ⟨rfl, rfl, rfl, rfl, rfl⟩⟩
  · rcases storeShown_commitCycle s g with ⟨hc, hshown⟩ | ⟨hc, hshown⟩
    · obtain ⟨-, -, hm, -⟩ := evaluateStages_ok hg
      exact .inr ⟨hst ▸ hc, _, hm, stall_none_of_commits hg hc, ht ▸ hshown.applyFills _, step_cycle_commits hg ht hc⟩
    · exact .inl ⟨hst ▸ hc, ht ▸ hshown.applyFills _⟩

/-- R274: a Memory stage has a store's effect only with a store in it. -/
theorem store_of_memoryStage {s : State} {m : MemoryResult} (h : memoryStage s = .ok m) :
    m.store = StoreEffect.none ∨ ∃ r n, s.xm = some r ∧ accessOf r.ins = some (.store n) := by
  rcases memoryStage_ok h with ⟨-, rfl⟩ | ⟨r, hx, ⟨why, -, rfl⟩ | ⟨n, sg, v, -, -, rfl⟩ | ⟨n, e, hacc, -, rfl⟩ |
    ⟨-, -, rfl⟩ | ⟨-, -, rfl⟩⟩
  case inr.inr.inr.inl => exact .inr ⟨r, n, hx, hacc⟩
  all_goals exact .inl rfl

/-- R274: a store in Memory that is not held has been serviced. -/
theorem memWrite_of_memoryStage {s : State} {m : MemoryResult} {r : ExecuteMemory} {n : Nat}
    (h : memoryStage s = .ok m) (hs : m.stall = none) (hx : s.xm = some r) (hacc : accessOf r.ins = some (.store n)) :
    s.memWrite r.result n r.sdata = .ok (.done m.store) := by
  simp only [memoryStage, hx, hacc] at h
  cases hw : s.memWrite r.result n r.sdata with
  | error e => simp [hw] at h
  | ok v =>
    cases v with
    | stall why =>
      simp only [hw, Except.ok.injEq] at h
      subst h
      cases hs
    | done e =>
      simp only [hw, Except.ok.injEq] at h
      subst h
      rfl

section
variable {s t : State} {a : Word} {n : Nat} {v : Word} {e : StoreEffect} (hn : n = 1 ∨ n = 2 ∨ n = 4 ∨ n = 8)
  (hw : s.memWrite a n v = .ok (.done e)) (h : StoreShown s t e s.nextInputs.dfill)
include hn hw h

/-- R81, R82, R83, R295: a cached store that is shown is committed, but for the lines filled at the same edge. -/
theorem storeCommitted_of_shown (hwf : Memory.wf DLine.absent s.dc) (hc : Config.inCachedWindow s.cfg a = true) :
    StoreCommitted s t a n v ∧ t.ext = none := by
  obtain ⟨ha, hb, hit, rfl⟩ := (memWrite_cached hn hc).mp hw
  obtain ⟨hcfg, hdc, hbusy, hext, hrecord⟩ := h
  generalize hu : s.applyStore _ = u at hdc
  have hst : Stored s u a n v := ⟨hwf, by simp [← hu], by rw [← hu]; rfl, hn, ha, hit⟩
  have hline (k : Nat) (hk : NotFilled s k) : t.dline k = u.dline k := by
    rw [← State.dline_applyFills hst.wf hk, State.dline, hdc]
    rfl
  have hbyte (b : Word) (hk : NotFilled s (Config.dindex s.cfg b)) : t.dataByte b = u.dataByte b :=
    dataByte_congr (hcfg.trans hst.cfg.symm) (by rw [hst.cfg]; exact hline _ hk)
  refine ⟨⟨⟨ha, hb, ?_⟩, fun hk k hlt => ?_, fun b hcov hk => ?_, fun k hk => ?_, hbusy, ?_⟩, hext⟩
  · simp [dataByte_eq_none, hit]
  · have hidx := dindex_congr (c := s.cfg) (rowOf_add_of_aligned hn ha hlt)
    rw [hbyte _ (hidx ▸ hk), hst.dataByte_covered hlt]
  · rw [hbyte b hk, hst.dataByte_not_covered hcov]
  · rw [hline k hk, hst.dline]
    split <;> simp
  · rw [hrecord, ← positioned_eq_lanes hn]
    rfl

end

/-- Settles O50: by what the cycle shows, with the two kinds of a store that is serviced. -/
theorem storesLeaveMemoryOnce : Obligations.StoresLeaveMemoryOnce := by
  intro s t hr h
  rcases step_cycle_store hr h with ⟨hnc, hshown⟩ | ⟨hcommits, m, hm, hs, hshown, hxm, hmw⟩
  · have hext : t.ext = none := hshown.ext
    have hrec : t.dcwrite = none := hshown.record
    refine ⟨fun e he => ?_, fun _ _ _ _ _ hc => absurd hc hnc, fun _ _ _ _ _ _ hc => absurd hc hnc, fun w hw => ?_,
      fun _ => hshown.dc⟩
    · rw [hext] at he
      cases he
    · rw [hrec] at hw
      cases hw
  · have serviced {r n} (hx : s.xm = some r) (hacc : accessOf r.ins = some (.store n)) :
        (n = 1 ∨ n = 2 ∨ n = 4 ∨ n = 8) ∧ s.memWrite r.result n r.sdata = .ok (.done m.store) :=
      ⟨width_of_accessOf (.inr hacc), memWrite_of_memoryStage hm hs hx hacc⟩
    refine ⟨fun e he => ⟨hcommits, ?_⟩, fun r n hx hacc hc _ => ?_, fun r n hwf hx hacc hc _ => ?_,
      fun w hw => ⟨hcommits, ?_⟩, fun hnone => ?_⟩
    · rcases store_of_memoryStage hm with hnone | ⟨r, n, hx, hacc⟩
      · rw [hshown.ext, hnone] at he
        cases he
      · obtain ⟨hn, hwr⟩ := serviced hx hacc
        cases hc : Config.inCachedWindow s.cfg r.result with
        | true =>
          obtain ⟨-, -, -, hcached⟩ := (memWrite_cached hn hc).mp hwr
          rw [hshown.ext, hcached] at he
          cases he
        | false =>
          obtain ⟨-, hext⟩ := (memWrite_external hn hc).mp hwr
          rw [hshown.ext, hext] at he
          exact ⟨r, n, hx, hacc, hc, (Option.some.inj he).symm, by rw [hmw, hx]; rfl, hxm⟩
    · obtain ⟨hn, hwr⟩ := serviced hx hacc
      obtain ⟨-, hext⟩ := (memWrite_external hn hc).mp hwr
      rw [hshown.ext, hext]
      rfl
    · obtain ⟨hn, hwr⟩ := serviced hx hacc
      obtain ⟨hcommitted, hext⟩ := storeCommitted_of_shown hn hwr hshown hwf hc
      exact ⟨hcommitted, hext, by rw [hmw, hx]; rfl, hxm⟩
    · rcases store_of_memoryStage hm with hnone | ⟨r, n, hx, hacc⟩
      · rw [hshown.record, hnone] at hw
        cases hw
      · obtain ⟨hn, hwr⟩ := serviced hx hacc
        cases hc : Config.inCachedWindow s.cfg r.result with
        | true => exact ⟨r, n, hx, hacc, hc⟩
        | false =>
          obtain ⟨-, hext⟩ := (memWrite_external hn hc).mp hwr
          rw [hshown.record, hext] at hw
          cases hw
    · have hcommit : m.store.commit = none := by
        rw [hshown.record] at hnone
        simpa using hnone
      rw [hshown.dc, State.applyStore_dc, hcommit]
      rfl

end Sys2Proof.Safety
end

section
/-! SUPPORT. The four kinds of instruction, and an instruction completed through Execute and Memory (R122, R274, R280). -/

namespace Sys2Proof.Machine

/-! ### The four kinds of instruction -/

/-- R122: the table gives each instruction one of four kinds: a load, a store, an alu instruction, a transfer. -/
theorem instr_kinds (i : Instr) :
    (∃ n signed rt, accessOf i = some (.load n signed) ∧ destField i = some rt ∧ aluMode i = some .add64 ∧
      isTransfer i = false) ∨
    (∃ n, accessOf i = some (.store n) ∧ destField i = none ∧ aluMode i = some .add64 ∧ isTransfer i = false) ∨
    (∃ mode rd, accessOf i = none ∧ destField i = some rd ∧ aluMode i = some mode ∧ isTransfer i = false) ∨
    (accessOf i = none ∧ destField i = none ∧ aluMode i = none ∧ isTransfer i = true) := by
  cases i <;> simp [accessOf, destField, aluMode, isTransfer]

theorem redirectOf_of_not_transfer {i : Instr} (h : isTransfer i = false) (pc : Word) (v : RegisterId → Word) :
    redirectOf pc v i = none := by
  cases i
  case beq | bne | j | jr => cases h
  all_goals rfl

/-- R281: what an instruction takes from the registers is a function of its sources. -/
theorem issue_congr {i : Instr} {v w : RegisterId → Word} (h : ∀ r ∈ sources i, v r = w r) (pc : Word) :
    issue pc i v = issue pc i w := by
  have hops : aluOperands v i = aluOperands w i := by
    cases i <;> simp_all [sources, aluOperands]
  have hdata : storeData v i = storeData w i := by
    cases i <;> simp_all [sources, storeData]
  have hredirect : redirectOf pc v i = redirectOf pc w i := by
    cases i <;> simp_all [sources, redirectOf]
  rw [issue, issue, hops, hdata, hredirect]

end Sys2Proof.Machine

namespace Sys2Proof.Safety

open Sys2Proof.Machine

/-! ### Completing through Memory -/

/-- A completed result writes its destination and nothing else. -/
theorem after_result {u : State} {r : ExecuteMemory} {rd : RegisterId} (hd : destField r.ins = some rd) (v : Word) :
    (after u (MemoryResult.result r (Config.dest u.cfg r.ins) v)).rf = (u.writeX rd v).rf ∧
    (after u (MemoryResult.result r (Config.dest u.cfg r.ins) v)).dc = u.dc := by
  refine ⟨?_, ?_⟩
  · simp only [after, MemoryResult.result, writebackStage, Config.dest, hd, State.writeX]
    cases Config.realDest u.cfg rd <;> simp [StoreEffect.none]
  · simp [after, MemoryResult.result, StoreEffect.none]

/-- A completed instruction without a result has its store's effect and nothing else. -/
theorem after_effect (u : State) (r : ExecuteMemory) (e : StoreEffect) :
    (after u (MemoryResult.effect r e)).rf = u.rf ∧
    (after u (MemoryResult.effect r e)).dc = (u.applyStore e).dc := by
  simp [after, MemoryResult.effect, writebackStage]

/-- R280, R281: the record the instruction `i` at `pc` leaves Execute with, its operands read as `v`. -/
def resultOf (pc : Word) (i : Instr) (v : RegisterId → Word) : ExecuteMemory :=
  executed
    { pc := pc, ins := i, a := (aluOperands v i).1, b := (aluOperands v i).2, sdata := storeData v i
      taken := (redirectOf pc v i).isSome }

@[simp] theorem resultOf_ins (pc : Word) (i : Instr) (v : RegisterId → Word) : (resultOf pc i v).ins = i := rfl
@[simp] theorem resultOf_sdata (pc : Word) (i : Instr) (v : RegisterId → Word) :
    (resultOf pc i v).sdata = storeData v i := rfl

theorem resultOf_result {i : Instr} {mode : AluMode} (h : aluMode i = some mode) (pc : Word) (v : RegisterId → Word) :
    (resultOf pc i v).result = alu mode (aluOperands v i).1 (aluOperands v i).2 := by
  simp [resultOf, executed, executeResult, h]

section
variable {i : Instr} {p t : State}

/-- What completing the instruction `i` of `p` at once has in common with the step from `p` to `t`: the registers, the
DCache, and addresses that go on past the next one or to the target. -/
structure CompletesAs (i : Instr) (p t : State) : Prop where
  completes : ∃ u, completeMemory p (resultOf p.pc i p.x) = some u ∧ u.rf = t.rf ∧ u.dc = t.dc
  pc : t.pc = p.npc
  npc : t.npc = (redirectOf p.pc p.x i).getD (p.npc + 4)
  afterTaken : t.afterTaken = (redirectOf p.pc p.x i).isSome

section
variable {m : MemoryResult} (hb : p.dcBusy = false)
  (hm : memoryStage { p with xm := some (resultOf p.pc i p.x) } = .ok m)
include hb hm

theorem completeMemory_resultOf (hs : m.stall = none) :
    completeMemory p (resultOf p.pc i p.x) = some (after p m) := by
  refine completeMemory_some.mpr ⟨m, ?_, hs, rfl⟩
  rw [← hm]
  exact memoryStage_congr rfl rfl hb.symm rfl

theorem CompletesAs.of_result {rd : RegisterId} {v : Word} (hd : destField i = some rd) (htr : isTransfer i = false)
    (he : m = MemoryResult.result (resultOf p.pc i p.x) (Config.dest p.cfg i) v) (ht : t = p.retire rd v) :
    CompletesAs i p t := by
  subst ht
  have hafter : (after p m).rf = (p.writeX rd v).rf ∧ (after p m).dc = p.dc := he ▸ after_result hd v
  obtain ⟨hrf, hdc⟩ := hafter
  refine ⟨⟨_, completeMemory_resultOf hb hm (he ▸ rfl), ?_, ?_⟩, ?_, ?_, ?_⟩ <;>
    simp [hrf, hdc, redirectOf_of_not_transfer htr]

theorem CompletesAs.of_effect {e : StoreEffect} (he : m = MemoryResult.effect (resultOf p.pc i p.x) e)
    (hrf : t.rf = p.rf) (hdc : t.dc = (p.applyStore e).dc) (hpc : t.pc = p.npc)
    (hnpc : t.npc = (redirectOf p.pc p.x i).getD (p.npc + 4))
    (hslot : t.afterTaken = (redirectOf p.pc p.x i).isSome) : CompletesAs i p t := by
  have hafter : (after p m).rf = p.rf ∧ (after p m).dc = (p.applyStore e).dc := he ▸ after_effect p _ e
  obtain ⟨hurf, hudc⟩ := hafter
  exact ⟨⟨_, completeMemory_resultOf hb hm (he ▸ rfl), hurf.trans hrf.symm, hudc.trans hdc.symm⟩, hpc, hnpc, hslot⟩

end

/-- R14: completing an instruction at once is the instruction-level step of it, by its kind. -/
theorem completesAs_of_exec (h : exec i p = .next t) (hok : t.status = .ok) (hb : p.dcBusy = false) :
    CompletesAs i p t := by
  have waits {r : StallReason} (ht : t = p.stalled r) : CompletesAs i p t := by
    rw [ht] at hok
    cases hok
  rw [exec_eq_tableEffect, tableEffect] at h
  rcases instr_kinds i with ⟨n, signed, rt, hacc, hd, hmode, htr⟩ | ⟨n, hacc, hd, hmode, htr⟩ |
    ⟨mode, rd, hacc, hd, hmode, htr⟩ | ⟨hacc, hd, hmode, htr⟩
  case inl =>
    simp only [hacc, hd] at h
    rcases State.load_next h with ⟨r, -, ht⟩ | ⟨v, hv, ht⟩
    · exact waits ht
    · refine .of_result hb ?_ hd htr rfl ht
      rw [← resultOf_result hmode p.pc,
        State.memRead_congr (s := { p with xm := some (resultOf p.pc i p.x) }) (t := p) rfl rfl rfl] at hv
      simp only [memoryStage, resultOf_ins, hacc, hv]
  case inr.inl =>
    simp only [hacc] at h
    rcases State.store_next h with ⟨r, -, ht⟩ | ⟨e, he, rfl⟩
    · exact waits ht
    · refine .of_effect hb ?_ rfl (by simp) (applyStore_dc_congr (by simp) e) (by simp)
        (by simp [redirectOf_of_not_transfer htr]) (by simp [redirectOf_of_not_transfer htr])
      rw [← resultOf_result hmode p.pc,
        State.memWrite_congr (s := { p with xm := some (resultOf p.pc i p.x) }) (t := p) rfl rfl rfl] at he
      simp only [memoryStage, resultOf_ins, hacc, resultOf_sdata, he]
  case inr.inr.inl =>
    simp only [hacc, hd, hmode, Host.Outcome.next.injEq] at h
    refine .of_result hb ?_ hd htr rfl h.symm
    rw [← resultOf_result hmode p.pc]
    simp [memoryStage, hacc, htr]
  case inr.inr.inr =>
    simp only [hacc, hd, hmode] at h
    obtain ⟨-, rfl⟩ := State.branch_next h
    refine .of_effect (e := StoreEffect.none) hb ?_ rfl (by simp) (by simp [StoreEffect.none]) (by simp)
      (by simp) (by simp)
    simp [memoryStage, hacc, htr]

end

end Sys2Proof.Safety
end

section
/-! The pipeline and the program (45_pipeline_controller.md): bypassed operands, and a cycle on the program's state. -/

namespace Sys2Proof.Safety

open Sys2Proof.Machine

/-! ### The bypass network (O56) -/

theorem offers_map (d : Option RegisterId) (v : Word) {q : RegisterId} (h : d ≠ some q) :
    offers (d.map fun r => (r, v)) q = none := by
  cases d with
  | none => rfl
  | some r => simpa [offers] using h

theorem not_transfer_of_isAlu {i : Instr} (h : isAlu i = true) : isTransfer i = false := by
  rcases instr_kinds i with ⟨_, _, _, hacc, -⟩ | ⟨_, hacc, -⟩ | ⟨_, _, -, -, -, htr⟩ | ⟨-, -, hmode, -⟩
  · simp [isAlu, hacc] at h
  · simp [isAlu, hacc] at h
  · exact htr
  · simp [isAlu, hmode] at h

/-- R274, R280: the value Execute offers is the one Memory will offer for its instruction, but for a load's. -/
theorem offers_executed {s u : State} {r : DecodeExecute} {m : MemoryResult} {q : RegisterId} (hx : s.dx = some r)
    (hc : u.cfg = s.cfg) (hux : u.xm = some (executed r)) (hm : memoryStage u = .ok m) (hs : m.stall = none)
    (hq : (executeStage s).loadDest ≠ some q) : offers m.fwd q = offers (executeStage s).fwd q := by
  have hstage : (executeStage s).loadDest = (if isLoad r.ins then Config.dest s.cfg r.ins else none) ∧
      (executeStage s).fwd =
        (if isAlu r.ins then (Config.dest s.cfg r.ins).map fun d => (d, executeResult r) else none) := by
    simp [executeStage, hx]
  obtain ⟨hload, hfwd⟩ := hstage
  rw [hload] at hq
  rw [hfwd]
  rcases memoryStage_ok hm with ⟨hnone, -⟩ | ⟨r', hr', hcases⟩
  · simp [hnone] at hux
  · obtain rfl : executed r = r' := Option.some.inj (hux.symm.trans hr')
    have hins : (executed r).ins = r.ins := rfl
    rw [hins] at hcases
    rcases hcases with ⟨why, -, rfl⟩ | ⟨n, sg, v, hacc, -, rfl⟩ | ⟨n, e, hacc, -, rfl⟩ | ⟨hacc, htr, rfl⟩ |
      ⟨hacc, htr, rfl⟩
    case inl => cases hs
    case inr.inl =>
      have hl : isLoad r.ins = true := by simp [isLoad, hacc]
      have ha : isAlu r.ins = false := by simp [isAlu, hacc]
      rw [if_pos hl, ← hc] at hq
      rw [ha]
      exact offers_map _ v hq
    case inr.inr.inl =>
      have ha : isAlu r.ins = false := by simp [isAlu, hacc]
      rw [ha]
      rfl
    case inr.inr.inr.inl =>
      have ha : isAlu r.ins = false := by
        rw [← Bool.not_eq_true]
        intro h
        simp [not_transfer_of_isAlu h] at htr
      rw [ha]
      rfl
    case inr.inr.inr.inr =>
      have ha : isAlu r.ins = true := by
        rcases instr_kinds r.ins with ⟨_, _, _, h, -⟩ | ⟨_, h, -⟩ | ⟨_, _, -, -, hmode, -⟩ | ⟨-, -, -, h⟩
        · simp [h] at hacc
        · simp [h] at hacc
        · simp [isAlu, hmode, hacc]
        · simp [h] at htr
      rw [if_pos ha, ← hc]
      rfl

/-- R283: the order of the bypass sources. -/
theorem operandValue_eq (s : State) (x : ExecuteResult) (m : MemoryResult) (w : Option (RegisterId × Word))
    (q : RegisterId) : operandValue s x m w q = if Config.isZeroRegister s.cfg q then 0
      else (offers x.fwd q).getD ((offers m.fwd q).getD ((offers w q).getD (s.reg q))) := by
  unfold operandValue
  cases offers x.fwd q <;> cases offers m.fwd q <;> cases offers w q <;> rfl

section
variable {s g : State} {m : MemoryResult} (hm : memoryStage s = .ok m) (hs : m.stall = none) (hg : flush s = some g)
include hm hs hg

/-- With Writeback and Memory completed, only the instruction in Execute is left. -/
theorem flush_cases : ∃ s2, Same (after (s.writeBack (writebackStage s)) m) s2 ∧
    ((s.dx = none ∧ g = s2) ∨ ∃ r, s.dx = some r ∧ completeMemory s2 (executed r) = some g) := by
  obtain ⟨s2, hsame, hflush⟩ := flush_eq hm hs
  refine ⟨s2, hsame, ?_⟩
  rw [hg] at hflush
  cases hx : s.dx with
  | none =>
    rw [hx] at hflush
    exact .inl ⟨rfl, Option.some.inj hflush⟩
  | some r =>
    rw [hx] at hflush
    exact .inr ⟨r, rfl, hflush.symm⟩

theorem flush_cfg : g.cfg = s.cfg := by
  obtain ⟨s2, hsame, hcase⟩ := flush_cases hm hs hg
  have hcfg : s2.cfg = s.cfg := hsame.cfg.trans (by simp [after])
  rcases hcase with ⟨-, rfl⟩ | ⟨r, -, hr⟩
  · exact hcfg
  · obtain ⟨m', -, -, rfl⟩ := completeMemory_some.mp hr
    simp [after, hcfg]

/-- R283: the registers after the older instructions, youngest producer first. -/
theorem flush_reg {q : RegisterId} (hq : (executeStage s).loadDest ≠ some q) : g.reg q =
    (offers (executeStage s).fwd q).getD ((offers m.fwd q).getD ((offers (writebackStage s) q).getD (s.reg q))) := by
  obtain ⟨s2, hsame, hcase⟩ := flush_cases hm hs hg
  have hreg : s2.reg q = (offers m.fwd q).getD ((offers (writebackStage s) q).getD (s.reg q)) := by
    rw [State.reg_congr hsame.rf, after_reg hm hs, reg_writeBack]
  rcases hcase with ⟨hx, rfl⟩ | ⟨r, hx, hr⟩
  · have hnone : (executeStage s).fwd = none := by simp [executeStage, hx]
    rw [hreg, hnone]
    rfl
  · obtain ⟨m', hm', hs', rfl⟩ := completeMemory_some.mp hr
    have hcfg : s2.cfg = s.cfg := hsame.cfg.trans (by simp [after])
    rw [after_reg hm' hs', offers_executed hx (by exact hcfg) (by rfl) hm' hs' hq, hreg]

end

/-- Settles O56: the bypass sources in order are the writes of the older instructions, youngest first. -/
theorem bypassGivesProgramOrderValue : Obligations.BypassGivesProgramOrderValue := by
  intro s g m q hm hs hg hlock
  rw [operandValue_eq, State.x, flush_cfg hm hs hg]
  cases hz : Config.isZeroRegister s.cfg q with
  | true => rfl
  | false =>
    have hq : (executeStage s).loadDest ≠ some q := by simpa [interlocks, hz] using hlock
    rw [flush_reg hm hs hg hq]

/-! ### A cycle on the program's state (O57, O58) -/

/-- R291: the state after a cycle that commits, as far as completing its instructions depends on it. -/
theorem same_writeBack_of_commits {s s' : State} {m : MemoryResult}
    (hcfg : s'.cfg = s.cfg) (hrf : s'.rf = (s.writeBack (writebackStage s)).rf) (hdc : s'.dc = (s.applyStore m.store).dc)
    (hmw : s'.mw = m.next) :
    Same (after (s.writeBack (writebackStage s)) m) (s'.writeBack (writebackStage s')) := by
  refine ⟨by simp [after, hcfg], ?_, ?_⟩
  · rw [after, writebackStage_congr (s := { s.writeBack (writebackStage s) with mw := m.next }) (t := s') hmw]
    exact writeBack_rf_congr (by simp [hrf]) _
  · rw [after, State.writeBack_dc, State.writeBack_dc, hdc]
    exact applyStore_dc_congr (by simp) _

/-- The instruction in Execute completed, on a state in which the older ones are. -/
def completeExecute (g : State) : Option DecodeExecute → Option State
  | none => some g
  | some r => completeMemory g (executed r)

section
variable {s s' : State} (hr : s.reading = .cycle) (hu : Undisturbed s) (h : step s = .next s')
include hr hu h

/-- R291, R292, R294: what an undisturbed cycle that commits makes of the back end. -/
theorem backEnd_of_commits (hst : Commits s'.status) : ∃ m, memoryStage s = .ok m ∧ m.stall = none ∧
    Same (after (s.writeBack (writebackStage s)) m) (s'.writeBack (writebackStage s')) ∧
    s'.xm = s.dx.map executed := by
  obtain ⟨st, hev, ht, hs'⟩ := step_cycle_of_status hr h (by rcases hst with hok | hlock <;> simp [*])
  have hcommits : Commits st.status := hs' ▸ hst
  obtain ⟨hxm, -⟩ := step_cycle_commits hev ht hcommits
  rw [undisturbed_fills hu] at ht
  obtain ⟨hw, -, hm, -⟩ := evaluateStages_ok hev
  have hrf : s'.rf = (s.writeBack (writebackStage s)).rf := by
    rcases commitCycle_rf s.popInputs st with ⟨-, hrf⟩ | ⟨⟨r, hne, hc⟩, -⟩
    · rw [ht, hrf, hw]
      exact writeBack_rf_congr (s := s) (t := s.popInputs) rfl _
    · exact absurd (hc ▸ hcommits) (not_commits_stall hne)
  have hmw : s'.mw = st.memory.next := by
    rw [ht]
    rcases commitCycle_stages s.popInputs st with ⟨-, -, -, -, hmw⟩ | ⟨-, -, -, -, hmw⟩ | ⟨⟨r, hne, hc⟩, -⟩
    · exact hmw
    · exact hmw
    · exact absurd (hc ▸ hcommits) (not_commits_stall hne)
  refine ⟨st.memory, hm, stall_none_of_commits hev hcommits, ?_, hxm⟩
  rcases step_cycle_store hr h with ⟨hnc, -⟩ | ⟨-, m, hm', -, ⟨hcfg, hdc, -⟩, -⟩
  · exact absurd hst hnc
  · obtain rfl : st.memory = m := by simpa [hm] using hm'
    obtain ⟨-, -, hnofill⟩ := hu
    rw [hnofill] at hdc
    exact same_writeBack_of_commits hcfg hrf hdc hmw

/-- R291: in an undisturbed cycle that commits, Writeback and Memory complete and Execute moves on: what is left is the
instruction that left Decode, on the program's state as it was before the cycle. -/
theorem flush_of_commits {g : State} (hst : Commits s'.status) (hg : flush s = some g) : ∃ g1, Same g g1 ∧
    flush s' = completeExecute g1 s'.dx := by
  obtain ⟨m, hm, hs, hsame', hxm⟩ := backEnd_of_commits hr hu h hst
  obtain ⟨s2, hsame, hcase⟩ := flush_cases hm hs hg
  have hsame : Same s2 (s'.writeBack (writebackStage s')) := hsame.symm.trans hsame'
  rcases hcase with ⟨hx, rfl⟩ | ⟨r, hx, hr⟩
  · refine ⟨_, hsame, ?_⟩
    cases hdx : s'.dx <;> simp [flush, hxm, hx, hdx, completeExecute]
  · obtain ⟨g1, hg1, hsame1⟩ := completeMemory_same hsame hr
    refine ⟨g1, hsame1, ?_⟩
    cases hdx : s'.dx <;> simp [flush, hxm, hx, hg1, hdx, completeExecute]

/-- R22, R281, R287: what an undisturbed `Ok` cycle makes of the front end, with an instruction in Decode: it is issued
with the operands the program's state has. -/
theorem frontEnd_of_ok {g : State} {f : FetchDecode} {i : Instr} (hst : s'.status = .ok) (hf : s.fd = some f)
    (hdec : decode f.word = .ok i) (hg : flush s = some g) :
    s'.dx = (issue f.pc i g.x).next ∧ s'.pc = (redirectOf f.pc g.x i).getD (s.pc + 4) := by
  obtain ⟨st, hev, ht, hs'⟩ := step_cycle_of_status hr h (by simp [hst])
  rw [undisturbed_fills hu] at ht
  rw [hst] at hs'
  obtain ⟨-, -, hm, hd, -⟩ := evaluateStages_ok hev
  obtain ⟨hs, hi, -⟩ := Stages.status_ok hs'.symm
  rw [decodeUnlessStalled_of_no_stall hs] at hd
  have hissue : st.decode = issue f.pc i g.x := by
    rcases decodeStage_ok hd with ⟨hnone, -⟩ | ⟨f', i', hf', hdec', -, ⟨-, hlock⟩ | ⟨hfree, hd'⟩⟩
    · simp [hf] at hnone
    · simp [hlock] at hi
    · obtain rfl : f = f' := Option.some.inj (hf.symm.trans hf')
      obtain rfl : i = i' := Except.ok.inj (hdec.symm.trans hdec')
      rw [hd']
      refine issue_congr (fun r hmem => ?_) f.pc
      exact bypassGivesProgramOrderValue s g st.memory r hm hs hg
        (by simpa using List.any_eq_false.mp hfree r hmem)
  rcases commitCycle_pc_dx s.popInputs st with ⟨-, hpc, hdx⟩ | ⟨hc, -⟩
  · rw [ht, hpc, hdx, hissue]
    exact ⟨rfl, rfl⟩
  · exact absurd hs'.symm hc

end

/-- Settles O57: Decode issues the instruction with the operands of the program's state, and completing it there is the
instruction-level step. -/
theorem pipelineFollowsInstructionLevel : Obligations.PipelineFollowsInstructionLevel := by
  intro s s' g t f i hr hu h hst hf hdec hg hx hok
  obtain ⟨hdx, hpc⟩ := frontEnd_of_ok hr hu h hst hf hdec hg
  obtain ⟨g1, hsame, hflush⟩ := flush_of_commits hr hu h (.inl hst) hg
  obtain ⟨⟨u, hcomplete, hrf, hdc⟩, htpc, htnpc, htslot⟩ := completesAs_of_exec hx hok rfl
  obtain ⟨g', hg', hsame'⟩ := completeMemory_same (s := programPoint s g f.pc) (t := g1)
    ⟨hsame.cfg, hsame.rf, hsame.dc⟩ hcomplete
  obtain ⟨⟨w, -, hfd⟩, -⟩ := okCycleAdvances s s' hr h hst
  have hslot : s'.inDelaySlot = (redirectOf f.pc g.x i).isSome := by
    rw [State.inDelaySlot, hdx]
    rfl
  rw [hdx] at hflush
  exact ⟨g', hflush.trans hg', fun q => State.reg_congr (hsame'.rf.trans hrf) q, hsame'.dc.trans hdc,
    by rw [hfd, htpc]; rfl, by rw [hpc, htnpc]; rfl, by rw [hslot, htslot]; rfl⟩

/-- R290, R291: a cycle without reset that does not commit is frozen. -/
theorem frozen_of_not_commits {s s' : State} (hr : s.reading = .cycle) (hn : s.nextInputs.reset = false)
    (h : step s = .next s') (hst : ¬Commits s'.status) : ∃ why, s' = frozen s why := by
  rcases step_cycle_cases hr h with ⟨hreset, -⟩ | ⟨-, -, st, -, -, hs'⟩
  · simp [hn] at hreset
  · rcases State.commitCycle_cases s.popInputs st with ⟨hc, -⟩ | ⟨hc, -⟩ | ⟨why, hne, hc, -⟩
    · exact absurd (.inl (hs'.trans hc)) hst
    · exact absurd (.inr (hs'.trans hc)) hst
    · exact ⟨why, frozenCycleKeepsState s s' why hr h (hs'.trans hc) hne⟩

/-- Settles O58: a frozen cycle changes nothing that completing depends on; any other that takes nothing out of Decode
leaves nothing between Decode and the instructions completed before. -/
theorem idleCyclesKeepProgramState : Obligations.IdleCyclesKeepProgramState := by
  intro s s' g hr hu h hg hidle
  suffices hsame : ∃ g', flush s' = some g' ∧ Same g g' by
    obtain ⟨g', hg', hsame⟩ := hsame
    exact ⟨g', hg', fun q => State.reg_congr hsame.rf q, hsame.dc⟩
  by_cases hst : Commits s'.status
  · have hdx : s'.dx = none := by
      rcases hst with hok | hlock
      · obtain ⟨-, hdx, -⟩ := okCycleAdvances s s' hr h hok
        rw [hidle.resolve_left (not_not_intro hok)] at hdx
        exact Option.map_eq_none_iff.mp hdx
      · obtain ⟨-, -, -, hdx, -⟩ := loadInterlockCycle.1 s s' hr h hlock
        exact hdx
    obtain ⟨g1, hsame, hflush⟩ := flush_of_commits hr hu h hst hg
    rw [hdx] at hflush
    exact ⟨g1, hflush, hsame⟩
  · obtain ⟨why, rfl⟩ := frozen_of_not_commits hr hu.1 h hst
    rw [frozen, undisturbed_fills hu]
    exact flush_congr (s := s) (t := s.popInputs.stalled why) ⟨rfl, rfl, rfl⟩ rfl rfl rfl hg

end Sys2Proof.Safety
end
